-- ==== Sys2Proof/Word.lean ====
section
/-! DEFINITION. The widths and the fixed names of the block: bytes, ports, addresses (00_scope.md R7), the two
phases, the six scheduler steps, the nine actions and the two kinds of a key event (10_state.md R24, R27, R28, R31).
Nothing here can be mended later, so nothing here computes. -/

namespace Sys2Proof

/-- `DATA_W` = 8: a port data value, a frame-buffer byte, a raster intensity (00_scope.md R7). -/
abbrev Byte := BitVec 8

/-- `PORT_W` = 8: a port number (20_memory.md R50). -/
abbrev Port := BitVec 8

/-- `ADDR_W` = 16: an address of the CPU's memory (00_scope.md R7). -/
abbrev Addr := BitVec 16

/-- `INREG_W` = 16: the Input Register and any mask over it (10_state.md R23). -/
abbrev InWord := BitVec 16

/-- The two interrupt phases, `Mid` and `End` (10_state.md R28); `fin` is `End`. -/
inductive Phase where
  | mid
  | fin
  deriving DecidableEq, Repr

/-- The scheduler's step index, one of 1 to 6 (10_state.md R27). -/
inductive SStep where
  | one
  | two
  | three
  | four
  | five
  | six
  deriving DecidableEq, Repr

/-- The nine switches and their logical actions, in id order 0 to 8 (10_state.md R24). -/
inductive Action where
  | coin
  | p1Start
  | p2Start
  | p1Left
  | p1Right
  | p1Fire
  | p2Left
  | p2Right
  | p2Fire
  deriving DecidableEq, Repr

/-- The kind of a platform key event: key-down or key-up (10_state.md R31). -/
inductive EventKind where
  | down
  | up
  deriving DecidableEq, Repr

end Sys2Proof
end

