-- ==== Sys2Proof/Config.lean ====
section
/-! DEFINITION. The configuration record of 00_scope.md R7, the constants the source prints, and the free values: what
the external instruction executor does when the state names no behaviour for it (43_scheduler.md R181). -/

namespace Sys2Proof

/-- `FB_SIZE` as a number, for the type of `VRAM_BASE` (00_scope.md R7). -/
abbrev fbSize : Nat := 7168

/-- The number of addresses of the CPU's memory, 2^`ADDR_W`, as a number (00_scope.md R7). -/
abbrev addrSpace : Nat := 65536

/-- A row of the parameter table whose value is fixed: a value, and that it is the one the table gives. -/
structure Fixed {α : Type} (v : α) where
  val : α
  eq : val = v
  deriving DecidableEq, Repr

/-- The table's value. -/
def Fixed.row {α : Type} (v : α) : Fixed v := ⟨v, rfl⟩

/-- The configuration, one record with every row of the parameter table of 00_scope.md R7 (`FB_SIZE` and
`CYCLES_PER_SLICE` are computed from others, in Machine/Params.lean). A row whose value the table fixes is `Fixed` at that
value; the widths are those of the types of Word.lean (`Config.widths_of_types` in Laws/Config.lean). It is fixed for a
machine; the state carries it, and no step changes it (10_state.md R35). -/
structure Config where
  /-- `DATA_W`; also the pixels a frame-buffer byte holds (42_video_decode.md R160). -/
  dataW : Fixed 8
  /-- `PORT_W`. -/
  portW : Fixed 8
  /-- `INREG_W`. -/
  inregW : Fixed 16
  /-- `OFFSET_W`. -/
  offsetW : Fixed 3
  /-- `N_ACTIONS`. -/
  nActions : Fixed 9
  /-- `FB_COLS`. -/
  fbCols : Fixed 224
  /-- `FB_BYTES_PER_COL`. -/
  fbBytesPerCol : Fixed 32
  /-- `ADDR_W`. -/
  addrW : Fixed 16
  /-- `IMAGE_BASE`. -/
  imageBase : Fixed 0
  /-- `COL_ORIGIN`: 256 and not 255 (42_video_decode.md R161). -/
  colOrigin : Fixed 256
  /-- `PIX_ON`. -/
  pixOn : Fixed 255#8
  /-- `PIX_OFF`. -/
  pixOff : Fixed 0#8
  /-- `SWBIT`: the bit of the Input Register each action drives, by action id (10_state.md R24). -/
  swbit : Vector (Fin 16) 9
  /-- `VRAM_BASE`; its type is the constraint `VRAM_BASE + FB_SIZE ≤ 2^ADDR_W` (00_scope.md R7). -/
  vramBase : Fin (addrSpace - fbSize + 1)
  /-- `RASTER_ROWS`. -/
  rasterRows : Nat
  /-- `RASTER_COLS`. -/
  rasterCols : Nat
  /-- `CLOCK_HZ`. -/
  clockHz : Nat
  /-- `REFRESH_HZ`. -/
  refreshHz : Nat
  /-- `VEC_MID`. -/
  vecMid : Nat
  /-- `VEC_END`. -/
  vecEnd : Nat
  /-- `PHASE_RESET`. -/
  phaseReset : Phase
  /-- `SHIFT_RESET`, its `low`. -/
  lowReset : Byte
  /-- `SHIFT_RESET`, its `high`. -/
  highReset : Byte
  /-- `SHIFT_RESET`, its `offset`. -/
  offsetReset : BitVec 3
  /-- `KEYMAP`: the partial map from platform key ids to actions, the first entry of a key deciding (41_input_events.md
  R151). -/
  keymap : List (Nat × Action)
  deriving DecidableEq, Repr

/-- The defaults of 00_scope.md R7 and 10_state.md R24. PRESUMED by the spec itself (its Part 2 of
93_implementation_defined.md), except `keymap`, for which the spec gives no default: DESIGN CHOICE, log entry 3. -/
def Config.default : Config where
  dataW := .row 8
  portW := .row 8
  inregW := .row 16
  offsetW := .row 3
  nActions := .row 9
  fbCols := .row 224
  fbBytesPerCol := .row 32
  addrW := .row 16
  imageBase := .row 0
  colOrigin := .row 256
  pixOn := .row 255#8
  pixOff := .row 0#8
  swbit := #v[0, 2, 1, 5, 6, 4, 13, 14, 12]
  vramBase := 0x2400
  rasterRows := 224
  rasterCols := 257
  clockHz := 2000000
  refreshHz := 60
  vecMid := 1
  vecEnd := 2
  phaseReset := .mid
  lowReset := 0
  highReset := 0
  offsetReset := 0
  keymap := [(0, .coin), (1, .p1Start), (2, .p2Start), (3, .p1Left), (4, .p1Right), (5, .p1Fire), (6, .p2Left),
    (7, .p2Right), (8, .p2Fire)]

/-- One thing the CPU does to the block or to its memory while it executes an instruction (40_port_io.md R112). -/
inductive CpuAct where
  /-- An IN of port `p`. -/
  | read (p : Port)
  /-- An OUT of `v` to port `p`. -/
  | write (p : Port) (v : Byte)
  /-- A store of one byte to the CPU's own memory. -/
  | store (a : Addr) (b : Byte)
  deriving DecidableEq, Repr

/-- One `ExecuteOne()` as the block sees it (43_scheduler.md R181): any finite sequence of port transactions and memory
writes, in the CPU's order (92_eei_decisions.md D23), and the reported cycle cost, any natural number. -/
structure CpuInstr where
  acts : List CpuAct
  cost : Nat
  deriving DecidableEq, Repr, Inhabited

/-- FREE VALUE (log entry 5): the `n`-th CPU instruction the executor runs beyond those the state supplies. Nothing
constrains it. -/
opaque Config.freeInstr : Nat → CpuInstr

/-- FREE VALUE (log entry 5): the bytes the CPU writes to its memory on the `n`-th free interrupt delivery (what it
pushes is the executor's matter, 43_scheduler.md R181). Nothing constrains it. -/
opaque Config.freeResponse : Nat → List (Addr × Byte)

end Sys2Proof
end

