-- ==== Sys2Proof/Syntax.lean ====
section
/-! DEFINITION. The operations of the block, one constructor per row of spec/opcode_table.json in its order, and the
words its six interfaces carry (30_encoding.md R80). -/

namespace Sys2Proof

/-- A word of one interface. No class field is needed, "because each interface carries only its own format"
(30_encoding.md R80), so the interface is the constructor. -/
inductive Txn where
  /-- Format B, the CPU port bus: `d`[16], `p`[15:8], `v`[7:0] (R81). -/
  | bus (w : BitVec 17)
  /-- Format K, a key operation of the mapper on the Controller: `c`[4], `a`[3:0] (R83). -/
  | key (w : BitVec 5)
  /-- Format E, a mapped input event: `k`[4], `a`[3:0] (R84). -/
  | event (w : BitVec 5)
  /-- Format V, a source bit of the frame buffer: `col`[15:8], `byteIndex`[7:3], `bitIndex`[2:0] (R85). -/
  | video (w : BitVec 16)
  /-- Format R, a raster command: `r`[1:0] (R86). -/
  | raster (w : BitVec 2)
  /-- Format S, the scheduler's step word: `sstep`[3:1], `ph`[0] (R87). -/
  | sched (w : BitVec 4)
  deriving DecidableEq, Repr

/-- The 43 operations (30_encoding.md R82 to R87). -/
inductive Instr where
  /-- `IN 1` (R100). -/
  | in1
  /-- `IN 2` (R101). -/
  | in2
  /-- `IN 3` (R102). -/
  | in3
  /-- `OUT 2, v` (R104). -/
  | out2 (v : Byte)
  /-- `OUT 3, v` (R105). -/
  | out3 (v : Byte)
  /-- `OUT 4, v` (R106). -/
  | out4 (v : Byte)
  /-- `OUT 5, v` (R107). -/
  | out5 (v : Byte)
  /-- `OUT 6, v` (R108). -/
  | out6 (v : Byte)
  /-- `IN.UNIMPL`: a read of port `p`, not 1, 2 or 3 (R103). -/
  | inUnimpl (p : Port)
  /-- `OUT.UNIMPL`: a write of `v` to port `p`, not 2 to 6 (R109). -/
  | outUnimpl (p : Port) (v : Byte)
  /-- `KEYSET a` (R130). -/
  | keySet (a : Action)
  /-- `KEYCLR a` (R131). -/
  | keyClr (a : Action)
  /-- `PRESS.COIN` (R132). -/
  | pressCoin
  /-- `RELEASE.COIN` (R133). -/
  | releaseCoin
  /-- `PRESS.P1START` (R134). -/
  | pressP1Start
  /-- `RELEASE.P1START` (R135). -/
  | releaseP1Start
  /-- `PRESS.P2START` (R136). -/
  | pressP2Start
  /-- `RELEASE.P2START` (R137). -/
  | releaseP2Start
  /-- `PRESS.P1LEFT` (R138). -/
  | pressP1Left
  /-- `RELEASE.P1LEFT` (R139). -/
  | releaseP1Left
  /-- `PRESS.P1RIGHT` (R140). -/
  | pressP1Right
  /-- `RELEASE.P1RIGHT` (R141). -/
  | releaseP1Right
  /-- `PRESS.P1FIRE` (R142). -/
  | pressP1Fire
  /-- `RELEASE.P1FIRE` (R143). -/
  | releaseP1Fire
  /-- `PRESS.P2LEFT` (R144). -/
  | pressP2Left
  /-- `RELEASE.P2LEFT` (R145). -/
  | releaseP2Left
  /-- `PRESS.P2RIGHT` (R146). -/
  | pressP2Right
  /-- `RELEASE.P2RIGHT` (R147). -/
  | releaseP2Right
  /-- `PRESS.P2FIRE` (R148). -/
  | pressP2Fire
  /-- `RELEASE.P2FIRE` (R149). -/
  | releaseP2Fire
  /-- `EVENT.NONE`: an event word whose `a` names no action (R150). -/
  | eventNone (k : EventKind) (a : BitVec 4)
  /-- `PIXEL col, byteIndex, bitIndex` (R162). -/
  | pixel (col : BitVec 8) (byteIndex : BitVec 5) (bitIndex : BitVec 3)
  /-- `CLEAR` (R165). -/
  | clear
  /-- `DECODE` (R164). -/
  | decodePass
  /-- `PRESENT` (R166). -/
  | present
  /-- `SLICE`, step 1, any phase (R182). -/
  | slice (ph : Phase)
  /-- `INTR.MID`, step 2 with phase Mid (R183). -/
  | intrMid
  /-- `INTR.END`, step 2 with phase End (R184). -/
  | intrEnd
  /-- `TOGGLE`, step 3, any phase (R185). -/
  | toggle (ph : Phase)
  /-- `FRAME`, step 4 with phase Mid (R186). -/
  | frame
  /-- `FRAME.SKIP`, step 4 with phase End (R187). -/
  | frameSkip
  /-- `DRAIN`, step 5, any phase (R189). -/
  | drain (ph : Phase)
  /-- `QUITCHK`, step 6, any phase (R190). -/
  | quitChk (ph : Phase)
  deriving DecidableEq, Repr

end Sys2Proof
end

