-- ==== Sys2Proof/WellFormed.lean ====
section
/-! DEFINITION. Which terms of `Instr` stand for a word of the operation map (30_encoding.md R82 to R85, R89). -/

namespace Sys2Proof

/-- The ports a read is implemented for (20_memory.md R52). -/
def readable (p : Port) : Bool := p == 1#8 || p == 2#8 || p == 3#8

/-- The ports a write is implemented for (20_memory.md R52). -/
def writable (p : Port) : Bool := p == 2#8 || p == 3#8 || p == 4#8 || p == 5#8 || p == 6#8

/-- The operand checks: an unimplemented port is one no other row names, `EVENT.NONE` holds an id no action has, a
source column lies in the frame buffer (30_encoding.md R82, R84, R85). -/
def Instr.wf : Instr → Bool
  | .inUnimpl p => !readable p
  | .outUnimpl p _ => !writable p
  | .eventNone _ a => decide (9 ≤ a.toNat)
  | .pixel col _ _ => decide (col.toNat < 224)
  | .in1 | .in2 | .in3 | .out2 _ | .out3 _ | .out4 _ | .out5 _ | .out6 _ | .keySet _ | .keyClr _ => true
  | .pressCoin | .releaseCoin | .pressP1Start | .releaseP1Start | .pressP2Start | .releaseP2Start => true
  | .pressP1Left | .releaseP1Left | .pressP1Right | .releaseP1Right | .pressP1Fire | .releaseP1Fire => true
  | .pressP2Left | .releaseP2Left | .pressP2Right | .releaseP2Right | .pressP2Fire | .releaseP2Fire => true
  | .clear | .decodePass | .present => true
  | .slice _ | .intrMid | .intrEnd | .toggle _ | .frame | .frameSkip | .drain _ | .quitChk _ => true

end Sys2Proof
end

