-- ==== Sys2Proof/Decode.lean ====
section
/-! DEFINITION. Reading the words of the six interfaces (30_encoding.md R80 to R89) and, after it, writing them. -/

namespace Sys2Proof

/-- A word no interface ever carries; "a model whose types allow such a word refuses it rather than giving it a
meaning" (30_encoding.md R89). -/
inductive Reject where
  /-- Format K with `a` in 9..15. -/
  | keyIdUnused (a : BitVec 4)
  /-- Format V with `col` ≥ 224. -/
  | pixelOutsideFrame (col : BitVec 8)
  /-- Format R with `r` = 0b11. -/
  | rasterReserved
  /-- Format S with `sstep` in {0, 7}. -/
  | stepUnused (sstep : BitVec 3)
  deriving DecidableEq, Repr

/-- The action of an id, none for 9 to 15 (10_state.md R24). -/
def Action.ofId (a : BitVec 4) : Option Action :=
  match a.toNat with
  | 0 => some .coin
  | 1 => some .p1Start
  | 2 => some .p2Start
  | 3 => some .p1Left
  | 4 => some .p1Right
  | 5 => some .p1Fire
  | 6 => some .p2Left
  | 7 => some .p2Right
  | 8 => some .p2Fire
  | _ => none

/-- The id of an action, 0 to 8 (10_state.md R24). -/
def Action.toId : Action → BitVec 4
  | .coin => 0
  | .p1Start => 1
  | .p2Start => 2
  | .p1Left => 3
  | .p1Right => 4
  | .p1Fire => 5
  | .p2Left => 6
  | .p2Right => 7
  | .p2Fire => 8

/-- `ph`: Mid = 0, End = 1 (10_state.md R28). -/
def Phase.toBit : Phase → BitVec 1
  | .mid => 0
  | .fin => 1

/-- `ph` read back. -/
def Phase.ofBit (b : Bool) : Phase := if b then .fin else .mid

/-- `k`: 0 is key-down, 1 key-up (30_encoding.md R84). -/
def EventKind.toBit : EventKind → BitVec 1
  | .down => 0
  | .up => 1

/-- `k` read back. -/
def EventKind.ofBit (b : Bool) : EventKind := if b then .up else .down

/-- The step number in three bits (30_encoding.md R87). -/
def SStep.toBits : SStep → BitVec 3
  | .one => 1
  | .two => 2
  | .three => 3
  | .four => 4
  | .five => 5
  | .six => 6

/-- The step of a three-bit number; 0 and 7 name none (30_encoding.md R89). -/
def SStep.ofBits (b : BitVec 3) : Option SStep :=
  match b.toNat with
  | 1 => some .one
  | 2 => some .two
  | 3 => some .three
  | 4 => some .four
  | 5 => some .five
  | 6 => some .six
  | _ => none

/-- `PRESS a` as the operation of its row (30_encoding.md R84). -/
def pressInstr : Action → Instr
  | .coin => .pressCoin
  | .p1Start => .pressP1Start
  | .p2Start => .pressP2Start
  | .p1Left => .pressP1Left
  | .p1Right => .pressP1Right
  | .p1Fire => .pressP1Fire
  | .p2Left => .pressP2Left
  | .p2Right => .pressP2Right
  | .p2Fire => .pressP2Fire

/-- `RELEASE a` as the operation of its row (30_encoding.md R84). -/
def releaseInstr : Action → Instr
  | .coin => .releaseCoin
  | .p1Start => .releaseP1Start
  | .p2Start => .releaseP2Start
  | .p1Left => .releaseP1Left
  | .p1Right => .releaseP1Right
  | .p1Fire => .releaseP1Fire
  | .p2Left => .releaseP2Left
  | .p2Right => .releaseP2Right
  | .p2Fire => .releaseP2Fire

/-- The mapped event of a kind and an action (41_input_events.md R151). -/
def eventInstr : EventKind → Action → Instr
  | .down, a => pressInstr a
  | .up, a => releaseInstr a

/-- A port read, by port number; an unknown port is the last arm (30_encoding.md R82). -/
def decodeRead (p : Port) : Instr :=
  if p = 1#8 then .in1
  else if p = 2#8 then .in2
  else if p = 3#8 then .in3
  else .inUnimpl p

/-- A port write, by port number; an unknown port is the last arm (30_encoding.md R82). -/
def decodeWrite (p : Port) (v : Byte) : Instr :=
  if p = 2#8 then .out2 v
  else if p = 3#8 then .out3 v
  else if p = 4#8 then .out4 v
  else if p = 5#8 then .out5 v
  else if p = 6#8 then .out6 v
  else .outUnimpl p v

/-- Format B: the operation is selected by (`d`, `p`) alone, and a read's `v` is not an input (30_encoding.md R81). -/
def decodeBus (w : BitVec 17) : Instr :=
  if w.getLsbD 16 then decodeWrite (w.extractLsb' 8 8) (w.extractLsb' 0 8)
  else decodeRead (w.extractLsb' 8 8)

/-- Format K (30_encoding.md R83). -/
def decodeKey (w : BitVec 5) : Except Reject Instr :=
  match Action.ofId (w.extractLsb' 0 4) with
  | none => .error (.keyIdUnused (w.extractLsb' 0 4))
  | some a => .ok (if w.getLsbD 4 then .keySet a else .keyClr a)

/-- Format E (30_encoding.md R84). -/
def decodeEvent (w : BitVec 5) : Instr :=
  match Action.ofId (w.extractLsb' 0 4) with
  | none => .eventNone (EventKind.ofBit (w.getLsbD 4)) (w.extractLsb' 0 4)
  | some a => eventInstr (EventKind.ofBit (w.getLsbD 4)) a

/-- Format V (30_encoding.md R85). -/
def decodeVideo (w : BitVec 16) : Except Reject Instr :=
  if (w.extractLsb' 8 8).toNat < 224 then
    .ok (.pixel (w.extractLsb' 8 8) (w.extractLsb' 3 5) (w.extractLsb' 0 3))
  else .error (.pixelOutsideFrame (w.extractLsb' 8 8))

/-- Format R (30_encoding.md R86). -/
def decodeRaster (w : BitVec 2) : Except Reject Instr :=
  if w = 0#2 then .ok .clear
  else if w = 1#2 then .ok .decodePass
  else if w = 2#2 then .ok .present
  else .error .rasterReserved

/-- The operation of a step and a phase (30_encoding.md R87). -/
def schedInstr : SStep → Phase → Instr
  | .one, ph => .slice ph
  | .two, .mid => .intrMid
  | .two, .fin => .intrEnd
  | .three, ph => .toggle ph
  | .four, .mid => .frame
  | .four, .fin => .frameSkip
  | .five, ph => .drain ph
  | .six, ph => .quitChk ph

/-- Format S (30_encoding.md R87). -/
def decodeSched (w : BitVec 4) : Except Reject Instr :=
  match SStep.ofBits (w.extractLsb' 1 3) with
  | none => .error (.stepUnused (w.extractLsb' 1 3))
  | some st => .ok (schedInstr st (Phase.ofBit (w.getLsbD 0)))

/-- The operation a word of an interface selects, or the name of the word nothing ever issues. -/
def decode : Txn → Except Reject Instr
  | .bus w => .ok (decodeBus w)
  | .key w => decodeKey w
  | .event w => .ok (decodeEvent w)
  | .video w => decodeVideo w
  | .raster w => decodeRaster w
  | .sched w => decodeSched w

/-- A read's word: `d` = 0, `v` encoded 0 (30_encoding.md R81). -/
def readWord (p : Port) : BitVec 17 := 0#1 ++ p ++ 0#8

/-- A write's word: `d` = 1 (30_encoding.md R81). -/
def writeWord (p : Port) (v : Byte) : BitVec 17 := 1#1 ++ p ++ v

/-- A mapped event's word, `(k << 4) | a` (30_encoding.md R84). -/
def eventWord (k : EventKind) (a : BitVec 4) : BitVec 5 := k.toBit ++ a

/-- A scheduler step's word (30_encoding.md R87). -/
def schedWord (st : SStep) (ph : Phase) : BitVec 4 := st.toBits ++ ph.toBit

/-- The word of an operation, on its interface (30_encoding.md R82 to R87). -/
def encode : Instr → Txn
  | .in1 => .bus (readWord 1)
  | .in2 => .bus (readWord 2)
  | .in3 => .bus (readWord 3)
  | .out2 v => .bus (writeWord 2 v)
  | .out3 v => .bus (writeWord 3 v)
  | .out4 v => .bus (writeWord 4 v)
  | .out5 v => .bus (writeWord 5 v)
  | .out6 v => .bus (writeWord 6 v)
  | .inUnimpl p => .bus (readWord p)
  | .outUnimpl p v => .bus (writeWord p v)
  | .keySet a => .key (1#1 ++ a.toId)
  | .keyClr a => .key (0#1 ++ a.toId)
  | .pressCoin => .event (eventWord .down Action.coin.toId)
  | .releaseCoin => .event (eventWord .up Action.coin.toId)
  | .pressP1Start => .event (eventWord .down Action.p1Start.toId)
  | .releaseP1Start => .event (eventWord .up Action.p1Start.toId)
  | .pressP2Start => .event (eventWord .down Action.p2Start.toId)
  | .releaseP2Start => .event (eventWord .up Action.p2Start.toId)
  | .pressP1Left => .event (eventWord .down Action.p1Left.toId)
  | .releaseP1Left => .event (eventWord .up Action.p1Left.toId)
  | .pressP1Right => .event (eventWord .down Action.p1Right.toId)
  | .releaseP1Right => .event (eventWord .up Action.p1Right.toId)
  | .pressP1Fire => .event (eventWord .down Action.p1Fire.toId)
  | .releaseP1Fire => .event (eventWord .up Action.p1Fire.toId)
  | .pressP2Left => .event (eventWord .down Action.p2Left.toId)
  | .releaseP2Left => .event (eventWord .up Action.p2Left.toId)
  | .pressP2Right => .event (eventWord .down Action.p2Right.toId)
  | .releaseP2Right => .event (eventWord .up Action.p2Right.toId)
  | .pressP2Fire => .event (eventWord .down Action.p2Fire.toId)
  | .releaseP2Fire => .event (eventWord .up Action.p2Fire.toId)
  | .eventNone k a => .event (eventWord k a)
  | .pixel col b i => .video (col ++ b ++ i)
  | .clear => .raster 0
  | .decodePass => .raster 1
  | .present => .raster 2
  | .slice ph => .sched (schedWord .one ph)
  | .intrMid => .sched (schedWord .two .mid)
  | .intrEnd => .sched (schedWord .two .fin)
  | .toggle ph => .sched (schedWord .three ph)
  | .frame => .sched (schedWord .four .mid)
  | .frameSkip => .sched (schedWord .four .fin)
  | .drain ph => .sched (schedWord .five ph)
  | .quitChk ph => .sched (schedWord .six ph)

/-- The interface of an 8-bit table word. Formats K, E, R and S all fit one byte and share their numbers
(30_encoding.md R80 needs no class field, the table's number has none): an event word that names an action is taken as
one, then a scheduler word, then `EVENT.NONE`. DESIGN CHOICE, log entry 4. -/
def tableByte (w : Nat) : Option Txn :=
  if 32 ≤ w then none
  else if w % 16 ≤ 8 then some (.event (BitVec.ofNat 5 w))
  else if 2 ≤ w ∧ w < 14 then some (.sched (BitVec.ofNat 4 w))
  else some (.event (BitVec.ofNat 5 w))

/-- The interface word of an opcode-table word of `nbits` bits, by the widths of 30_encoding.md R80, as they stand and
rounded up to whole bytes. -/
def tableTxn (nbits w : Nat) : Option Txn :=
  if nbits = 17 ∨ nbits = 24 then (if w < 2 ^ 17 then some (.bus (BitVec.ofNat 17 w)) else none)
  else if nbits = 16 then (if w < 2 ^ 16 then some (.video (BitVec.ofNat 16 w)) else none)
  else if nbits = 8 then tableByte w
  else if nbits = 5 then (if w < 2 ^ 5 then some (.event (BitVec.ofNat 5 w)) else none)
  else if nbits = 4 then (if w < 2 ^ 4 then some (.sched (BitVec.ofNat 4 w)) else none)
  else if nbits = 2 then (if w < 2 ^ 2 then some (.raster (BitVec.ofNat 2 w)) else none)
  else none

/-- The instruction the decoder reads from a table word, none where it refuses. -/
def decodeTableWord (nbits w : Nat) : Option Instr :=
  match tableTxn nbits w with
  | none => none
  | some t =>
    match decode t with
    | .ok i => some i
    | .error _ => none

end Sys2Proof
end

