-- ==== Sys2Proof/Machine/Params.lean ====
section
/-! DEFINITION. What is computed from the configuration: switch bits and masks, the cycle budget, the key map, and the
constraints a configuration must meet (00_scope.md R7). -/

namespace Sys2Proof

/-- The nine actions in id order. -/
def Action.all : List Action :=
  [.coin, .p1Start, .p2Start, .p1Left, .p1Right, .p1Fire, .p2Left, .p2Right, .p2Fire]

/-- The action's place in the switch table: its id (10_state.md R24). -/
def Action.index : Action → Fin 9
  | .coin => 0
  | .p1Start => 1
  | .p2Start => 2
  | .p1Left => 3
  | .p1Right => 4
  | .p1Fire => 5
  | .p2Left => 6
  | .p2Right => 7
  | .p2Fire => 8

/-- `SWBIT(a)` (10_state.md R24). -/
def Config.bit (c : Config) (a : Action) : Nat := (c.swbit[a.index]).val

/-- `1 << SWBIT(a)` (41_input_events.md R130). -/
def Config.switchMask (c : Config) (a : Action) : InWord := 1#16 <<< c.bit a

/-- `ASSIGNED`: the mask of the nine switch bits (10_state.md R24). -/
def Config.assigned (c : Config) : InWord := Action.all.foldl (fun m a => m ||| c.switchMask a) 0#16

/-- `CYCLES_PER_SLICE` = floor(`CLOCK_HZ` / (2 × `REFRESH_HZ`)), one truncation (43_scheduler.md R192). -/
def Config.budget (c : Config) : Nat := c.clockHz / (2 * c.refreshHz)

/-- `FB_SIZE` = `FB_COLS` × `FB_BYTES_PER_COL` (00_scope.md R7). -/
def Config.fbSize (c : Config) : Nat := c.fbCols.val * c.fbBytesPerCol.val

/-- `KEYMAP(key)`, none for an unmapped key (41_input_events.md R151). -/
def Config.actionOf (c : Config) (key : Nat) : Option Action := c.keymap.lookup key

/-- What a configuration must meet (00_scope.md R7): `SWBIT` injective, the two vectors distinct, `REFRESH_HZ` ≥ 1 and
`CYCLES_PER_SLICE` ≥ 1. That `SWBIT` maps the `N_ACTIONS` actions into 0 to `INREG_W` - 1, and that
`VRAM_BASE + FB_SIZE ≤ 2^ADDR_W`, are the types of the two fields, and stand here as the table says them. -/
abbrev Config.wf (c : Config) : Prop :=
  c.swbit.toList.Nodup ∧ c.vecMid ≠ c.vecEnd ∧ 1 ≤ c.refreshHz ∧ 1 ≤ c.budget ∧
    c.swbit.toList.length = c.nActions.val ∧ (∀ b ∈ c.swbit.toList, b.val < c.inregW.val) ∧
    c.vramBase.val + c.fbSize ≤ 2 ^ c.addrW.val

end Sys2Proof
end

