-- ==== Sys2Proof/Machine/State.lean ====
section
/-! DEFINITION. The state of the block and of its interfaces as plain data (10_state.md R20 to R39), the reasons a step
stops, and reset (10_state.md R36). -/

namespace Sys2Proof.Machine

/-- Bytes by number, in one canonical form: numbers strictly rising, no entry equal to what an unlisted number reads as
(`Memory.fill`). It holds the CPU's memory and, with `PIX_OFF` = 0, the raster. -/
abbrev Memory := List Host.Cell

/-- The Machine I/O Controller's one owned aggregate (10_state.md R20 to R23). -/
structure Controller where
  low : Byte
  high : Byte
  offset : BitVec 3
  inreg : InWord
  deriving DecidableEq, Repr

/-- The scheduler's state (10_state.md R26 to R28). `inSlice` is the MODEL's own: a slice has begun and its budget is
not met yet (log entry 6). -/
structure Scheduler where
  phase : Phase
  cyc : Nat
  sstep : SStep
  inSlice : Bool
  deriving DecidableEq, Repr

/-- An input event: a kind and a platform key id (10_state.md R31). -/
structure Event where
  kind : EventKind
  key : Nat
  deriving DecidableEq, Repr

/-- A fault record, code and info (60_exceptions.md R210). -/
inductive FaultRecord where
  /-- Code 1, with the port read. -/
  | unknownPortRead (p : Port)
  /-- Code 2, with the port written. -/
  | unknownPortWrite (p : Port)
  /-- Code 3, with the destination (row, column). -/
  | rasterOutOfBounds (row col : Nat)
  /-- Code 4, raised at boot only. -/
  | imageLoadFailure
  /-- Code 5, raised at boot only. -/
  | surfaceInitFailure
  deriving DecidableEq, Repr

/-- What the host may do at a step boundary (43_scheduler.md R195). -/
inductive HostAct where
  /-- Append an input event. -/
  | key (kind : EventKind) (key : Nat)
  /-- Set `quit`. -/
  | quit
  deriving DecidableEq, Repr

/-- The external instruction executor, as far as the block meets it (43_scheduler.md R181). The MODEL's own fields (log
entry 5): the state supplies what the CPU does, and keeps what it was given. -/
structure CpuSide where
  /-- The instructions the next `ExecuteOne()` calls execute, the first one first; after them `Config.freeInstr`. -/
  supplied : List CpuInstr
  /-- What the CPU writes to memory on the next `DeliverInterrupt` calls; after them `Config.freeResponse`. -/
  responses : List (List (Addr × Byte))
  /-- How many free values have been drawn. -/
  draws : Nat
  /-- The bytes port reads returned to the CPU, the last one first. -/
  received : List Byte
  /-- The vectors delivered to the CPU, the last one first. -/
  vectors : List Nat
  deriving DecidableEq, Repr

/-- Everything the spec gives the machine (10_state.md R20), its interfaces, and its configuration. -/
structure State where
  /-- The configuration (00_scope.md R7); no step changes it. -/
  cfg : Config
  /-- `low`, `high`, `offset`, `inreg`. -/
  io : Controller
  /-- `phase`, `cyc`, `sstep`. -/
  sched : Scheduler
  /-- `fault`: none, or one fault record (10_state.md R29). -/
  fault : Option FaultRecord
  /-- `quit`: the latch (10_state.md R30). -/
  quit : Bool
  /-- `events`: the queue, the oldest first (10_state.md R31). -/
  events : List Event
  /-- `raster`: element (r, c) under the number r × `RASTER_COLS` + c (10_state.md R32). -/
  raster : Memory
  /-- `presented`: what the host was last shown (10_state.md R33). -/
  presented : Option Memory
  /-- The CPU's memory (10_state.md R34). -/
  mem : Memory
  /-- The executor's side (the MODEL's own). -/
  cpu : CpuSide
  /-- What the host does at the coming step boundaries, one batch for each (the MODEL's own, log entry 7). -/
  host : List (List HostAct)
  /-- A transaction presented on an interface from outside the scheduler's loop; the next step performs it (the MODEL's
  own, log entry 8). No step of the machine presents one. -/
  txn : Option Txn
  /-- The run has ended with success (43_scheduler.md R194; the MODEL's own, log entry 9). -/
  ended : Bool
  deriving DecidableEq, Repr

/-- Why the machine stops with a fault. -/
inductive Fault where
  /-- Raised by `step` and by every meaning on a state whose `fault` holds a record: that state "has no successor"
  (60_exceptions.md R214). Safe: the machine has terminated too. -/
  | faulted (r : FaultRecord)
  deriving DecidableEq, Repr

/-- Why a step has no meaning. -/
inductive Refusal where
  /-- Raised by `exec`'s arm of an instruction without a meaning. Safe. -/
  | notModelled (mnemonic : String)
  /-- Raised by `step` on a word no interface carries, and by `PIXEL` on a column outside the frame buffer
  (30_encoding.md R89: refuse). Safe. -/
  | neverIssued (r : Reject)
  /-- Raised by `step` and by every meaning once the run has ended with success (43_scheduler.md R194). Safe: there is
  no operation left to perform. -/
  | runOver
  /-- Raised by `boot` on a program image that does not fit below `VRAM_BASE` (70_reset_and_hazards.md R244: a launch
  premise). Safe. -/
  | imageTooLong
  deriving DecidableEq, Repr

/-- The executor's side with nothing supplied, drawn or delivered. -/
def CpuSide.empty : CpuSide where
  supplied := []
  responses := []
  draws := 0
  received := []
  vectors := []

/-- The reset state of a configuration (10_state.md R36). -/
def State.resetWith (c : Config) : State where
  cfg := c
  io := ⟨c.lowReset, c.highReset, c.offsetReset, c.switchMask .coin⟩
  sched := ⟨c.phaseReset, 0, .one, false⟩
  fault := none
  quit := false
  events := []
  raster := []
  presented := none
  mem := []
  cpu := .empty
  host := []
  txn := none
  ended := false

/-- The machine right after reset, with the spec's default configuration. -/
def State.reset : State := State.resetWith Config.default

end Sys2Proof.Machine
end

