-- ==== Sys2Proof/Machine/Flags.lean ====
section
/-! DEFINITION. "The block has no status flags, no condition codes and no predicates" (10_state.md R37): there is no flag
to compute. What stands here is the little status the machine has: the phase flip, the fault codes, and whether the run
is still going. -/

namespace Sys2Proof

/-- `Mid → End`, `End → Mid` (43_scheduler.md R185). -/
def Phase.other : Phase → Phase
  | .mid => .fin
  | .fin => .mid

namespace Machine

/-- The numeric code of a fault record (60_exceptions.md R210). -/
def FaultRecord.code : FaultRecord → Nat
  | .unknownPortRead _ => 1
  | .unknownPortWrite _ => 2
  | .rasterOutOfBounds _ _ => 3
  | .imageLoadFailure => 4
  | .surfaceInitFailure => 5

/-- The run has neither faulted nor ended (43_scheduler.md R194). -/
def State.running (s : State) : Bool := s.fault.isNone && !s.ended

end Machine

end Sys2Proof
end

