-- ==== Sys2Proof/Machine/Operands.lean ====
section
/-! DEFINITION. The values the operations read and the places they write: the halves of the Input Register, the shift
window, the masked offset, the source byte of a pixel and its destination (30_encoding.md R88). -/

namespace Sys2Proof.Machine

/-- `inreg[7:0]` (40_port_io.md R100). -/
def Controller.inputLow (c : Controller) : Byte := c.inreg.extractLsb' 0 8

/-- `inreg[15:8]` (40_port_io.md R101). -/
def Controller.inputHigh (c : Controller) : Byte := c.inreg.extractLsb' 8 8

/-- The 16-bit value of the pair, `(high << 8) | low` (10_state.md R21). -/
def Controller.pair (c : Controller) : BitVec 16 := (c.high.setWidth 16 <<< 8) ||| c.low.setWidth 16

/-- The shift window: the pair shifted right by `8 - offset`, its low 8 bits (40_port_io.md R102). -/
def Controller.window (c : Controller) : Byte := (c.pair >>> (8 - c.offset.toNat)).extractLsb' 0 8

/-- `v & 0x07` (40_port_io.md R104). -/
def maskOffset (v : Byte) : BitVec 3 := v.extractLsb' 0 3

/-- The byte offset of a source byte in the frame buffer, `32 × col + byteIndex` (42_video_decode.md R160). -/
def frameOffset (c : Config) (col byteIndex : Nat) : Nat := c.fbBytesPerCol.val * col + byteIndex

/-- The memory address of a source byte (20_memory.md R54). -/
def frameAddr (c : Config) (col byteIndex : Nat) : Nat := c.vramBase.val + frameOffset c col byteIndex

/-- The destination column, `256 - (8 × byteIndex + bitIndex)` (42_video_decode.md R161). -/
def destColumn (c : Config) (byteIndex bitIndex : Nat) : Nat :=
  c.colOrigin.val - (c.dataW.val * byteIndex + bitIndex)

/-- The number a raster element is kept under. -/
def rasterKey (c : Config) (row col : Nat) : Nat := row * c.rasterCols + col

end Sys2Proof.Machine
end

