-- ==== Sys2Proof/Machine/Ops.lean ====
section
/-! DEFINITION. The named operations over memory, raster and registers that the meanings share, fault entry among them
(60_exceptions.md R214). There is no return from a fault (60_exceptions.md R216). -/

namespace Sys2Proof.Machine

/-- What an unlisted number reads as: for memory a DESIGN CHOICE (log entry 10), for the raster `PIX_OFF`. -/
def Memory.fill : Byte := 0#8

/-- One byte. -/
def Memory.read : Memory → Nat → Byte
  | [], _ => Memory.fill
  | (k, b) :: rest, a => if k = a then b else Memory.read rest a

/-- One byte written, the canonical form kept. -/
def Memory.write : Memory → Nat → Byte → Memory
  | [], a, v => if v = Memory.fill then [] else [(a, v)]
  | (k, b) :: rest, a, v =>
    if a < k then (if v = Memory.fill then (k, b) :: rest else (a, v) :: (k, b) :: rest)
    else if a = k then (if v = Memory.fill then rest else (a, v) :: rest)
    else (k, b) :: Memory.write rest a v

/-- The canonical form, with every number below `bound`. -/
abbrev Memory.wf (bound : Nat) (m : Memory) : Prop :=
  m.Pairwise (fun x y => x.1 < y.1) ∧ ∀ c ∈ m, c.1 < bound ∧ c.2 ≠ Memory.fill

/-- Every number below `n` with the byte `v`, in canonical form. -/
def Memory.all (n : Nat) (v : Byte) : Memory := if v = Memory.fill then [] else (List.range n).map fun k => (k, v)

/-- A list of bytes written one after another. -/
def Memory.writeAll (m : Memory) : List (Addr × Byte) → Memory
  | [] => m
  | (a, v) :: rest => Memory.writeAll (m.write a.toNat v) rest

/-- Set the Controller. -/
def State.setIo (s : State) (x : Controller) : State := { s with io := x }
/-- Set the scheduler's record. -/
def State.setSched (s : State) (x : Scheduler) : State := { s with sched := x }
/-- Set the event queue. -/
def State.setEvents (s : State) (x : List Event) : State := { s with events := x }
/-- Set the raster. -/
def State.setRaster (s : State) (x : Memory) : State := { s with raster := x }
/-- Set what the host was shown. -/
def State.setPresented (s : State) (x : Option Memory) : State := { s with presented := x }
/-- Set the CPU's memory. -/
def State.setMem (s : State) (x : Memory) : State := { s with mem := x }
/-- Set the executor's side. -/
def State.setCpu (s : State) (x : CpuSide) : State := { s with cpu := x }
/-- Set the host's coming batches. -/
def State.setHost (s : State) (x : List (List HostAct)) : State := { s with host := x }
/-- Set the presented transaction. -/
def State.setTxn (s : State) (x : Option Txn) : State := { s with txn := x }
/-- Raise the quit latch; nothing clears it (10_state.md R30). -/
def State.setQuit (s : State) : State := { s with quit := true }
/-- The run ends with success (43_scheduler.md R194). -/
def State.finish (s : State) : State := { s with ended := true }

/-- Fault entry, the whole trap mechanism: `fault <- F`, and nothing else is written (60_exceptions.md R214). -/
def State.raise (s : State) (r : FaultRecord) : State := { s with fault := some r }

/-- Go to a step of the loop (10_state.md R27). -/
def State.goto (s : State) (st : SStep) : State := s.setSched { s.sched with sstep := st }

/-- Hand the CPU the byte its port read returns. -/
def State.receive (s : State) (b : Byte) : State := s.setCpu { s.cpu with received := b :: s.cpu.received }

/-- An operation is performed only while the run is going (10_state.md R29, 60_exceptions.md R214, 43_scheduler.md
R194): every meaning goes through here. -/
def perform (op : State → State) (s : State) : Host.Outcome State Fault Refusal :=
  match s.fault with
  | some r => .fault (.faulted r)
  | none => if s.ended then .refused .runOver else .next (op s)

/-- `f 0`, `f 1`, …, `f (n - 1)` in that order, stopping at the first fault (60_exceptions.md R214). -/
def sweep (n : Nat) (f : Nat → State → State) (s : State) : State :=
  (List.range n).foldl (fun t k => if t.fault.isNone then f k t else t) s

/-- `IN 1` (40_port_io.md R100). -/
def readPort1 (s : State) : State := s.receive s.io.inputLow

/-- `IN 2` (40_port_io.md R101). -/
def readPort2 (s : State) : State := s.receive s.io.inputHigh

/-- `IN 3` (40_port_io.md R102). -/
def readPort3 (s : State) : State := s.receive s.io.window

/-- A read of an unimplemented port (40_port_io.md R103). -/
def readUnknown (p : Port) (s : State) : State := s.raise (.unknownPortRead p)

/-- `OUT 2, v` (40_port_io.md R104). -/
def writePort2 (v : Byte) (s : State) : State := s.setIo { s.io with offset := maskOffset v }

/-- `OUT 3`, `OUT 5`, `OUT 6`: accepted, no effect (40_port_io.md R105, R107, R108). -/
def writeIgnored (_v : Byte) (s : State) : State := s

/-- `OUT 4, v`: the shift-in, both registers together (40_port_io.md R106). -/
def writePort4 (v : Byte) (s : State) : State := s.setIo { s.io with low := s.io.high, high := v }

/-- A write of an unimplemented port (40_port_io.md R109). -/
def writeUnknown (p : Port) (s : State) : State := s.raise (.unknownPortWrite p)

/-- `IoRead(p)` as the CPU meets it, by the port map (20_memory.md R52). -/
def portRead (p : Port) (s : State) : State :=
  if p = 1#8 then readPort1 s
  else if p = 2#8 then readPort2 s
  else if p = 3#8 then readPort3 s
  else readUnknown p s

/-- `IoWrite(p, v)` as the CPU meets it, by the port map (20_memory.md R52). -/
def portWrite (p : Port) (v : Byte) (s : State) : State :=
  if p = 2#8 then writePort2 v s
  else if p = 3#8 then writeIgnored v s
  else if p = 4#8 then writePort4 v s
  else if p = 5#8 then writeIgnored v s
  else if p = 6#8 then writeIgnored v s
  else writeUnknown p s

/-- `KeySet(a)` (41_input_events.md R130). -/
def keySet (a : Action) (s : State) : State := s.setIo { s.io with inreg := s.io.inreg ||| s.cfg.switchMask a }

/-- `KeyClr(a)` (41_input_events.md R131). -/
def keyClr (a : Action) (s : State) : State := s.setIo { s.io with inreg := s.io.inreg &&& ~~~ (s.cfg.switchMask a) }

/-- `Press(a)`: the coin action is inverted (41_input_events.md R132 to R148). -/
def pressAction (a : Action) (s : State) : State := if a = .coin then keyClr a s else keySet a s

/-- `Release(a)`: the coin action is inverted (41_input_events.md R133 to R149). -/
def releaseAction (a : Action) (s : State) : State := if a = .coin then keySet a s else keyClr a s

/-- A platform event, mapped and applied; an unmapped key does nothing (41_input_events.md R150, R151). -/
def applyEvent (s : State) (e : Event) : State :=
  match s.cfg.actionOf e.key with
  | none => s
  | some a =>
    match e.kind with
    | .down => pressAction a s
    | .up => releaseAction a s

/-- The source bit of (col, byteIndex, bitIndex): bit 0 is the least significant (42_video_decode.md R160). -/
def State.sourceBit (s : State) (col byteIndex bitIndex : Nat) : Bool :=
  (s.mem.read (frameAddr s.cfg col byteIndex)).getLsbD bitIndex

/-- The raster element (row, col). -/
def State.pixelAt (s : State) (row col : Nat) : Byte := s.raster.read (rasterKey s.cfg row col)

/-- `RasterSet(row, col, PIX_ON)`, and the fault its out-of-bounds answer raises (42_video_decode.md R162, R163). -/
def rasterSet (row col : Nat) (s : State) : State :=
  if row < s.cfg.rasterRows ∧ col < s.cfg.rasterCols then s.setRaster (s.raster.write (rasterKey s.cfg row col) s.cfg.pixOn.val)
  else s.raise (.rasterOutOfBounds row col)

/-- `Pixel(col, byteIndex, bitIndex)` (42_video_decode.md R162). -/
def decodePixel (col byteIndex bitIndex : Nat) (s : State) : State :=
  if s.sourceBit col byteIndex bitIndex then rasterSet col (destColumn s.cfg byteIndex bitIndex) s else s

/-- `DecodePass()`: every column, every byte, every bit, in that order (42_video_decode.md R164). -/
@[irreducible] def decodeAll (s : State) : State :=
  sweep s.cfg.fbCols.val
    (fun col => sweep s.cfg.fbBytesPerCol.val fun b => sweep s.cfg.dataW.val fun i => decodePixel col b i) s

/-- `RasterClear()`: every element becomes `PIX_OFF` (42_video_decode.md R165). -/
def clearRaster (s : State) : State :=
  s.setRaster (Memory.all (s.cfg.rasterRows * s.cfg.rasterCols) s.cfg.pixOff.val)

/-- `RasterPresent()`: a copy (42_video_decode.md R166). -/
def presentRaster (s : State) : State := s.setPresented (some s.raster)

end Sys2Proof.Machine
end

