-- ==== Sys2Proof/Machine/Input.lean ====
section
/-! DEFINITION. The meanings of formats K and E: the key operations of the Controller and the mapped events of the Input
Event Mapper (41_input_events.md R130 to R150). -/

namespace Sys2Proof.Machine

/-- `KEYSET a` (R130). -/
def execKeySet (a : Action) (s : State) : Host.Outcome State Fault Refusal := perform (keySet a) s

/-- `KEYCLR a` (R131). -/
def execKeyClr (a : Action) (s : State) : Host.Outcome State Fault Refusal := perform (keyClr a) s

/-- `PRESS.COIN` (R132). -/
def execPressCoin (s : State) : Host.Outcome State Fault Refusal := perform (pressAction .coin) s

/-- `RELEASE.COIN` (R133). -/
def execReleaseCoin (s : State) : Host.Outcome State Fault Refusal := perform (releaseAction .coin) s

/-- `PRESS.P1START` (R134). -/
def execPressP1Start (s : State) : Host.Outcome State Fault Refusal := perform (pressAction .p1Start) s

/-- `RELEASE.P1START` (R135). -/
def execReleaseP1Start (s : State) : Host.Outcome State Fault Refusal := perform (releaseAction .p1Start) s

/-- `PRESS.P2START` (R136). -/
def execPressP2Start (s : State) : Host.Outcome State Fault Refusal := perform (pressAction .p2Start) s

/-- `RELEASE.P2START` (R137). -/
def execReleaseP2Start (s : State) : Host.Outcome State Fault Refusal := perform (releaseAction .p2Start) s

/-- `PRESS.P1LEFT` (R138). -/
def execPressP1Left (s : State) : Host.Outcome State Fault Refusal := perform (pressAction .p1Left) s

/-- `RELEASE.P1LEFT` (R139). -/
def execReleaseP1Left (s : State) : Host.Outcome State Fault Refusal := perform (releaseAction .p1Left) s

/-- `PRESS.P1RIGHT` (R140). -/
def execPressP1Right (s : State) : Host.Outcome State Fault Refusal := perform (pressAction .p1Right) s

/-- `RELEASE.P1RIGHT` (R141). -/
def execReleaseP1Right (s : State) : Host.Outcome State Fault Refusal := perform (releaseAction .p1Right) s

/-- `PRESS.P1FIRE` (R142). -/
def execPressP1Fire (s : State) : Host.Outcome State Fault Refusal := perform (pressAction .p1Fire) s

/-- `RELEASE.P1FIRE` (R143). -/
def execReleaseP1Fire (s : State) : Host.Outcome State Fault Refusal := perform (releaseAction .p1Fire) s

/-- `PRESS.P2LEFT` (R144). -/
def execPressP2Left (s : State) : Host.Outcome State Fault Refusal := perform (pressAction .p2Left) s

/-- `RELEASE.P2LEFT` (R145). -/
def execReleaseP2Left (s : State) : Host.Outcome State Fault Refusal := perform (releaseAction .p2Left) s

/-- `PRESS.P2RIGHT` (R146). -/
def execPressP2Right (s : State) : Host.Outcome State Fault Refusal := perform (pressAction .p2Right) s

/-- `RELEASE.P2RIGHT` (R147). -/
def execReleaseP2Right (s : State) : Host.Outcome State Fault Refusal := perform (releaseAction .p2Right) s

/-- `PRESS.P2FIRE` (R148). -/
def execPressP2Fire (s : State) : Host.Outcome State Fault Refusal := perform (pressAction .p2Fire) s

/-- `RELEASE.P2FIRE` (R149). -/
def execReleaseP2Fire (s : State) : Host.Outcome State Fault Refusal := perform (releaseAction .p2Fire) s

/-- `EVENT.NONE`: an event that names no action changes nothing (R150). -/
def execEventNone (_k : EventKind) (_a : BitVec 4) (s : State) : Host.Outcome State Fault Refusal := perform id s

end Sys2Proof.Machine
end

