-- ==== Sys2Proof/Machine/Ports.lean ====
section
/-! DEFINITION. The meanings of format B: the ten port operations (40_port_io.md R100 to R109). -/

namespace Sys2Proof.Machine

/-- `IN 1`: the low half of the Input Register goes to the CPU (R100). -/
def execIn1 (s : State) : Host.Outcome State Fault Refusal := perform readPort1 s

/-- `IN 2`: the high half of the Input Register goes to the CPU (R101). -/
def execIn2 (s : State) : Host.Outcome State Fault Refusal := perform readPort2 s

/-- `IN 3`: the shift window goes to the CPU (R102). -/
def execIn3 (s : State) : Host.Outcome State Fault Refusal := perform readPort3 s

/-- `IN.UNIMPL`: raise `UnknownPortRead(p)`; the CPU gets no byte (R103). -/
def execInUnimpl (p : Port) (s : State) : Host.Outcome State Fault Refusal := perform (readUnknown p) s

/-- `OUT 2, v`: `offset <- v & 0x07` (R104). -/
def execOut2 (v : Byte) (s : State) : Host.Outcome State Fault Refusal := perform (writePort2 v) s

/-- `OUT 3, v`: accepted, no effect (R105). -/
def execOut3 (v : Byte) (s : State) : Host.Outcome State Fault Refusal := perform (writeIgnored v) s

/-- `OUT 4, v`: `low <- high; high <- v` (R106). -/
def execOut4 (v : Byte) (s : State) : Host.Outcome State Fault Refusal := perform (writePort4 v) s

/-- `OUT 5, v`: accepted, no effect (R107). -/
def execOut5 (v : Byte) (s : State) : Host.Outcome State Fault Refusal := perform (writeIgnored v) s

/-- `OUT 6, v`: accepted, no effect (R108). -/
def execOut6 (v : Byte) (s : State) : Host.Outcome State Fault Refusal := perform (writeIgnored v) s

/-- `OUT.UNIMPL`: raise `UnknownPortWrite(p)`; `v` is stored nowhere (R109). -/
def execOutUnimpl (p : Port) (_v : Byte) (s : State) : Host.Outcome State Fault Refusal := perform (writeUnknown p) s

end Sys2Proof.Machine
end

