-- ==== Sys2Proof/Machine/Executor.lean ====
section
/-! DEFINITION. The external instruction executor's two capabilities, `ExecuteOne()` and `DeliverInterrupt(v)`, as the
block consumes them (43_scheduler.md R181): the state supplies what the CPU does, and beyond that it is a free value. -/

namespace Sys2Proof.Machine

/-- One thing the CPU does: a port access by the port map, or a store to its own memory (40_port_io.md R112). -/
def cpuAct (a : CpuAct) (s : State) : State :=
  match a with
  | .read p => portRead p s
  | .write p v => portWrite p v s
  | .store x b => s.setMem (s.mem.write x.toNat b)

/-- The CPU's accesses in its own order, each complete (20_memory.md R60); a port fault ends the `ExecuteOne()` it
occurred in (60_exceptions.md R214). -/
def cpuActs : List CpuAct → State → State
  | [], s => s
  | a :: rest, s =>
    let t := cpuAct a s
    if t.fault.isNone then cpuActs rest t else t

/-- `cyc <- cyc + c` for an `ExecuteOne()` that returned; one that faulted adds nothing (43_scheduler.md R182). -/
def executeInstr (c : CpuInstr) (s : State) : State :=
  let t := cpuActs c.acts s
  if t.fault.isNone then t.setSched { t.sched with cyc := t.sched.cyc + c.cost } else t

/-- `ExecuteOne()` beyond what the state supplies: a free instruction, a fresh one each time. -/
def executeFree (s : State) : State :=
  executeInstr (Config.freeInstr s.cpu.draws) (s.setCpu { s.cpu with draws := s.cpu.draws + 1 })

/-- `DeliverInterrupt(v)`: the CPU is handed the vector, and may write its memory; it performs no port operation
(43_scheduler.md R181). -/
def deliver (v : Nat) (s : State) : State :=
  match s.cpu.responses with
  | r :: rest =>
    (s.setCpu { s.cpu with responses := rest, vectors := v :: s.cpu.vectors }).setMem (s.mem.writeAll r)
  | [] =>
    (s.setCpu { s.cpu with draws := s.cpu.draws + 1, vectors := v :: s.cpu.vectors }).setMem
      (s.mem.writeAll (Config.freeResponse s.cpu.draws))

end Sys2Proof.Machine
end

