-- ==== Sys2Proof/Machine/Scheduler.lean ====
section
/-! DEFINITION. The meanings of format S: the six steps of the Frame/Interrupt Scheduler (43_scheduler.md R182 to
R190). -/

namespace Sys2Proof.Machine

/-- The end of the loop `while cyc < CYCLES_PER_SLICE`: `sstep <- 2` once the budget is met; until then the slice goes on
(R182, R253). -/
def sliceEnd (s : State) : State :=
  if s.cfg.budget ≤ s.sched.cyc then s.setSched { s.sched with sstep := .two, inSlice := false } else s

/-- The loop of `SLICE` (R182) over the instructions the state supplies; where they end before the budget is met, the
unfinished slice goes on in the next step (log entry 6). -/
def sliceLoop : List CpuInstr → State → State
  | [], s => sliceEnd s
  | c :: rest, s =>
    if s.sched.cyc < s.cfg.budget then
      let t := executeInstr c (s.setCpu { s.cpu with supplied := rest })
      if t.fault.isNone then sliceLoop rest t else t
    else sliceEnd s

/-- `cyc <- 0` where a slice begins; a slice in progress keeps its count. -/
def sliceBegin (s : State) : State :=
  if s.sched.inSlice then s else s.setSched { s.sched with cyc := 0, inSlice := true }

/-- One turn of the loop with no instruction supplied: a free one (log entry 5). -/
def sliceFree (s : State) : State :=
  if s.sched.cyc < s.cfg.budget then
    let t := executeFree s
    if t.fault.isNone then sliceEnd t else t
  else sliceEnd s

/-- `SLICE` (R182). -/
def slice (s : State) : State :=
  match s.cpu.supplied with
  | [] => sliceFree (sliceBegin s)
  | c :: rest => sliceLoop (c :: rest) (sliceBegin s)

/-- `TOGGLE` (R185). -/
def togglePhase (s : State) : State := s.setSched { s.sched with phase := s.sched.phase.other, sstep := .four }

/-- Clear, decode, present; a fault of the pass ends the operation there (R186, 60_exceptions.md R214). -/
def drawFrame (s : State) : State :=
  let t := decodeAll (clearRaster s)
  if t.fault.isNone then (presentRaster t).goto .five else t

/-- Every pending event, the oldest first; the queue is left empty (R189). -/
def drainEvents (s : State) : State := ((s.events.foldl applyEvent s).setEvents []).goto .six

/-- The one exit check of an iteration (R190). -/
def quitCheck (s : State) : State := if s.quit then s.finish else s.goto .one

/-- `SLICE` (R182). -/
def execSlice (_ph : Phase) (s : State) : Host.Outcome State Fault Refusal := perform slice s

/-- `INTR.MID`: `DeliverInterrupt(VEC_MID); sstep <- 3` (R183). -/
def execIntrMid (s : State) : Host.Outcome State Fault Refusal := perform (fun t => (deliver t.cfg.vecMid t).goto .three) s

/-- `INTR.END`: `DeliverInterrupt(VEC_END); sstep <- 3` (R184). -/
def execIntrEnd (s : State) : Host.Outcome State Fault Refusal := perform (fun t => (deliver t.cfg.vecEnd t).goto .three) s

/-- `TOGGLE` (R185). -/
def execToggle (_ph : Phase) (s : State) : Host.Outcome State Fault Refusal := perform togglePhase s

/-- `FRAME` (R186). -/
def execFrame (s : State) : Host.Outcome State Fault Refusal := perform drawFrame s

/-- `FRAME.SKIP`: `sstep <- 5` and nothing drawn (R187). -/
def execFrameSkip (s : State) : Host.Outcome State Fault Refusal := perform (fun t => t.goto .five) s

/-- `DRAIN` (R189). -/
def execDrain (_ph : Phase) (s : State) : Host.Outcome State Fault Refusal := perform drainEvents s

/-- `QUITCHK` (R190). -/
def execQuitChk (_ph : Phase) (s : State) : Host.Outcome State Fault Refusal := perform quitCheck s

end Sys2Proof.Machine
end

