-- ==== Sys2Proof/Machine/Video.lean ====
section
/-! DEFINITION. The meanings of formats V and R: the Video Raster Decoder and the raster commands (42_video_decode.md R162
to R166). -/

namespace Sys2Proof.Machine

/-- `PIXEL col, byteIndex, bitIndex` (R162). A column outside the frame buffer is refused: no interface carries it
(30_encoding.md R89). -/
def execPixel (col : BitVec 8) (byteIndex : BitVec 5) (bitIndex : BitVec 3) (s : State) :
    Host.Outcome State Fault Refusal :=
  if col.toNat < s.cfg.fbCols.val then perform (decodePixel col.toNat byteIndex.toNat bitIndex.toNat) s
  else .refused (.neverIssued (.pixelOutsideFrame col))

/-- `CLEAR` (R165). -/
def execClear (s : State) : Host.Outcome State Fault Refusal := perform clearRaster s

/-- `DECODE` (R164). -/
def execDecodePass (s : State) : Host.Outcome State Fault Refusal := perform decodeAll s

/-- `PRESENT` (R166). -/
def execPresent (s : State) : Host.Outcome State Fault Refusal := perform presentRaster s

end Sys2Proof.Machine
end

