-- ==== Sys2Proof/Machine/Dispatch.lean ====
section
/-! DEFINITION. The operation of each constructor: one call of its meaning. -/

namespace Sys2Proof.Machine

def exec (i : Instr) (s : State) : Host.Outcome State Fault Refusal :=
  match i with
  | .in1 => Sys2Proof.Machine.execIn1 s
  | .in2 => Sys2Proof.Machine.execIn2 s
  | .in3 => Sys2Proof.Machine.execIn3 s
  | .out2 v => Sys2Proof.Machine.execOut2 v s
  | .out3 v => Sys2Proof.Machine.execOut3 v s
  | .out4 v => Sys2Proof.Machine.execOut4 v s
  | .out5 v => Sys2Proof.Machine.execOut5 v s
  | .out6 v => Sys2Proof.Machine.execOut6 v s
  | .inUnimpl p => Sys2Proof.Machine.execInUnimpl p s
  | .outUnimpl p v => Sys2Proof.Machine.execOutUnimpl p v s
  | .keySet a => Sys2Proof.Machine.execKeySet a s
  | .keyClr a => Sys2Proof.Machine.execKeyClr a s
  | .pressCoin => Sys2Proof.Machine.execPressCoin s
  | .releaseCoin => Sys2Proof.Machine.execReleaseCoin s
  | .pressP1Start => Sys2Proof.Machine.execPressP1Start s
  | .releaseP1Start => Sys2Proof.Machine.execReleaseP1Start s
  | .pressP2Start => Sys2Proof.Machine.execPressP2Start s
  | .releaseP2Start => Sys2Proof.Machine.execReleaseP2Start s
  | .pressP1Left => Sys2Proof.Machine.execPressP1Left s
  | .releaseP1Left => Sys2Proof.Machine.execReleaseP1Left s
  | .pressP1Right => Sys2Proof.Machine.execPressP1Right s
  | .releaseP1Right => Sys2Proof.Machine.execReleaseP1Right s
  | .pressP1Fire => Sys2Proof.Machine.execPressP1Fire s
  | .releaseP1Fire => Sys2Proof.Machine.execReleaseP1Fire s
  | .pressP2Left => Sys2Proof.Machine.execPressP2Left s
  | .releaseP2Left => Sys2Proof.Machine.execReleaseP2Left s
  | .pressP2Right => Sys2Proof.Machine.execPressP2Right s
  | .releaseP2Right => Sys2Proof.Machine.execReleaseP2Right s
  | .pressP2Fire => Sys2Proof.Machine.execPressP2Fire s
  | .releaseP2Fire => Sys2Proof.Machine.execReleaseP2Fire s
  | .eventNone k a => Sys2Proof.Machine.execEventNone k a s
  | .pixel col b k => Sys2Proof.Machine.execPixel col b k s
  | .clear => Sys2Proof.Machine.execClear s
  | .decodePass => Sys2Proof.Machine.execDecodePass s
  | .present => Sys2Proof.Machine.execPresent s
  | .slice ph => Sys2Proof.Machine.execSlice ph s
  | .intrMid => Sys2Proof.Machine.execIntrMid s
  | .intrEnd => Sys2Proof.Machine.execIntrEnd s
  | .toggle ph => Sys2Proof.Machine.execToggle ph s
  | .frame => Sys2Proof.Machine.execFrame s
  | .frameSkip => Sys2Proof.Machine.execFrameSkip s
  | .drain ph => Sys2Proof.Machine.execDrain ph s
  | .quitChk ph => Sys2Proof.Machine.execQuitChk ph s

end Sys2Proof.Machine
end

