-- ==== Sys2Proof/Machine/Fetch.lean ====
section
/-! DEFINITION. Which word the next step performs. The block fetches no instructions (20_memory.md R64): the word is the
scheduler's own (`sstep`, `phase`) (30_encoding.md R87), or a transaction presented on an interface from outside the loop
(log entry 8). -/

namespace Sys2Proof.Machine

/-- The word of the next step. -/
def State.nextWord (s : State) : Txn :=
  match s.txn with
  | some t => t
  | none => .sched (schedWord s.sched.sstep s.sched.phase)

/-- The state in which the next step performs the word `t`: a scheduler word is the scheduler's own state, about
to begin that step, any other is presented on its interface. -/
def State.place (s : State) (t : Txn) : State :=
  match t with
  | .sched w =>
    match SStep.ofBits (w.extractLsb' 1 3) with
    | some st =>
      (s.setSched { s.sched with sstep := st, phase := Phase.ofBit (w.getLsbD 0), inSlice := false }).setTxn none
    | none => s.setTxn (some t)
  | .bus _ | .key _ | .event _ | .video _ | .raster _ => s.setTxn (some t)

/-- The same for a word of the opcode table; a number that is no word of any interface changes nothing. -/
def State.placeTable (s : State) (nbits w : Nat) : State :=
  match tableTxn nbits w with
  | some t => s.place t
  | none => s

end Sys2Proof.Machine
end

