-- ==== Sys2Proof/Machine/HostSide.lean ====
section
/-! DEFINITION. What the host (the presentation surface) does between the operations (20_memory.md R60, 43_scheduler.md
R195), and the boot sequence before the loop (70_reset_and_hazards.md R244). -/

namespace Sys2Proof.Machine

/-- `HOST.KEY` appends an event, `HOST.QUIT` sets the latch (30_encoding.md R92, 10_state.md R30, R31). -/
def hostAct (s : State) : HostAct → State
  | .key kind key => s.setEvents (s.events ++ [⟨kind, key⟩])
  | .quit => s.setQuit

/-- A step boundary: the host performs its next batch. There is none inside a slice (20_memory.md R60). -/
def hostTurn (s : State) : State :=
  if s.sched.inSlice then s
  else
    match s.host with
    | [] => s
    | batch :: rest => batch.foldl hostAct (s.setHost rest)

/-- The program image, byte `j` of the list at address `i` + `j` (70_reset_and_hazards.md R244). -/
def loadImage (m : Memory) : Nat → List Byte → Memory
  | _, [] => m
  | i, b :: rest => loadImage (m.write i b) (i + 1) rest

/-- Boot: image first, then the surface, then every state element at its reset value, then the loop at step 1
(70_reset_and_hazards.md R244). `image` is none where the file is missing or unreadable. A failed boot is a state whose
`fault` holds the failure, so it enters no loop. That the image fits below `VRAM_BASE` is a launch premise. -/
def boot (c : Config) (image : Option (List Byte)) (surfaceOk : Bool) : Host.Outcome State Fault Refusal :=
  match image with
  | none => .next ((State.resetWith c).raise .imageLoadFailure)
  | some bytes =>
    if c.imageBase.val + bytes.length ≤ c.vramBase.val then
      if surfaceOk then .next ((State.resetWith c).setMem (loadImage [] c.imageBase.val bytes))
      else .next ((State.resetWith c).raise .surfaceInitFailure)
    else .refused .imageTooLong

end Sys2Proof.Machine
end

