-- ==== Sys2Proof/Machine/Step.lean ====
section
/-! DEFINITION. One step: on a run that is still going, the host has its turn, then the next word is decoded and its
operation performed (43_scheduler.md R191). -/

namespace Sys2Proof.Machine

/-- A state with `fault` set has no successor (60_exceptions.md R214), a run that ended with success has none either
(43_scheduler.md R194), and a word nothing issues is refused (30_encoding.md R89). -/
def step (s : State) : Host.Outcome State Fault Refusal :=
  match s.fault with
  | some r => .fault (.faulted r)
  | none =>
    if s.ended then .refused .runOver
    else
      match decode (hostTurn s).nextWord with
      | .ok i => exec i ((hostTurn s).setTxn none)
      | .error r => .refused (.neverIssued r)

/-- `s` with the operation of a table word as its very next step (log entry 8). -/
def State.withFetchWord (s : State) (nbits w : Nat) : State := s.placeTable nbits w

end Sys2Proof.Machine
end

