-- ==== Sys2Proof/Machine/Pseudo.lean ====
section
/-! DEFINITION. The pseudo-operations, "each only an abbreviation for the sequence given" (30_encoding.md R93). They have
no word of their own and no constructor of `Instr`. -/

namespace Sys2Proof.Machine

/-- The operation left a slice unfinished: it was `SLICE`, it did not fault, and the budget is not met (log entry 6). -/
def unfinished (i : Instr) (t : State) : Bool :=
  match i with
  | .slice _ => t.fault.isNone && t.sched.inSlice
  | _ => false

/-- One operation to its end: an unfinished `SLICE` goes on, at most `n` times more. None where it has not ended by then;
a slice that never ends (70_reset_and_hazards.md R253) is none for every `n`. -/
def execToEnd (n : Nat) (i : Instr) (s : State) : Option (Host.Outcome State Fault Refusal) :=
  match exec i s with
  | .next t =>
    if unfinished i t then
      match n with
      | 0 => none
      | k + 1 => execToEnd k i t
    else some (.next t)
  | .fault r => some (.fault r)
  | .refused r => some (.refused r)

/-- The operations of a list one after another, each to its end, up to the first that does not go on or that raises a
fault (60_exceptions.md R214: every enclosing operation ends at once). None where a `SLICE` among them has not ended
when it has gone on `n` times. DESIGN CHOICE (log entry 20): the host has no turn between the operations of a list,
although 43_scheduler.md R191 lets it act between the steps of `ITER`; its batches wait in `host`, and `step` alone gives
it its turn. -/
def execAll (n : Nat) : List Instr → State → Option (Host.Outcome State Fault Refusal)
  | [], s => some (.next s)
  | i :: rest, s =>
    match execToEnd n i s with
    | some (.next t) => if t.fault.isNone then execAll n rest t else some (.next t)
    | some (.fault r) => some (.fault r)
    | some (.refused r) => some (.refused r)
    | none => none

/-- `SHIFTLOAD16 lo, hi`. -/
def shiftLoad16 (lo hi : Byte) : List Instr := [.out4 lo, .out4 hi]

/-- `SHIFTREAD o`. -/
def shiftRead (o : Byte) : List Instr := [.out2 o, .in3]

/-- `TAP a`. -/
def tap (a : Action) : List Instr := [pressInstr a, releaseInstr a]

/-- `ITER` from a phase, `SLICE` to its end and then the five other steps: the toggle of step 3 is seen by
steps 4 to 6 (43_scheduler.md R191). -/
def iter (ph : Phase) : List Instr :=
  [schedInstr .one ph, schedInstr .two ph, schedInstr .three ph,
    schedInstr .four ph.other, schedInstr .five ph.other, schedInstr .six ph.other]

/-- `FRAMEPAIR`. -/
def framePair : List Instr := iter .mid ++ iter .fin

end Sys2Proof.Machine
end

