-- ==== Sys2Proof/Safety.lean ====
section
/-! DEFINITION. The terms claims use: what a reachable state looks like, which source bit a raster element shows, and
what a CPU instruction with implemented ports only is. -/

namespace Sys2Proof

/-- The raster holds every destination of the decoder (42_video_decode.md R163); the default extent does. -/
abbrev Config.fits (c : Config) : Prop := 224 ≤ c.rasterRows ∧ 256 < c.rasterCols

/-- The destination (row, column) of source bit `n` lies in the raster (30_encoding.md R88 (7), 42_video_decode.md
R163). -/
def Config.holds (c : Config) (n : Nat) : Bool := decide (n / 256 < c.rasterRows ∧ 256 - n % 256 < c.rasterCols)

/-- The access raises no fault (20_memory.md R52). -/
def CpuAct.ok : CpuAct → Bool
  | .read p => readable p
  | .write p _ => writable p
  | .store _ _ => true

/-- No access of the instruction raises a fault. -/
def CpuInstr.ok (c : CpuInstr) : Bool := c.acts.all CpuAct.ok

namespace Machine

/-- The raster's form: canonical, inside its extent, and every element that is not `PIX_OFF` is `PIX_ON`
(42_video_decode.md R167 (5)). -/
def rasterForm (c : Config) (m : Memory) : Prop :=
  Memory.wf (c.rasterRows * c.rasterCols) m ∧ ∀ x ∈ m, x.2 = c.pixOn.val

/-- What holds of the machine in every state of a run. -/
structure State.Inv (s : State) : Prop where
  /-- The configuration meets its constraints (00_scope.md R7). -/
  cfgWf : s.cfg.wf
  /-- The CPU's memory is in canonical form and inside the address space. -/
  memWf : Memory.wf addrSpace s.mem
  /-- The raster is in canonical form and holds 0 or 255 (42_video_decode.md R167 (5)). -/
  rasterOk : rasterForm s.cfg s.raster
  /-- So is what the host was last shown. -/
  presentedOk : ∀ m, s.presented = some m → rasterForm s.cfg m
  /-- "bits not assigned to any switch are always zero" (10_state.md R25). -/
  inregOk : s.io.inreg &&& ~~~ s.cfg.assigned = 0#16
  /-- Inside a slice the scheduler stands at step 1 with the budget not met (43_scheduler.md R182). -/
  sliceOk : s.sched.inSlice = true → s.sched.sstep = .one ∧ s.sched.cyc < s.cfg.budget
  /-- A scheduler word is on no interface (30_encoding.md R87). -/
  txnOk : ∀ w, s.txn ≠ some (.sched w)
  /-- A run that ended with success read `quit` set (43_scheduler.md R190). -/
  endedOk : s.ended = true → s.quit = true

/-- Source bit `n` of the frame buffer, by its linear number `256 × col + 8 × byteIndex + bitIndex`
(30_encoding.md R85). -/
def State.frameBit (s : State) (n : Nat) : Bool := (s.mem.read (s.cfg.vramBase.val + n / 8)).getLsbD (n % 8)

/-- Every set source bit has its destination in the raster: no decode pass over this memory faults. A raster of the
default extent holds every destination (`Config.fits`). -/
abbrev State.drawable (s : State) : Prop := ∀ n, n < 57344 → s.frameBit n = true → s.cfg.holds n = true

/-- The image of the first `n` source bits laid over `old`: `PIX_ON` where one of them is set, `old` elsewhere (the inverse
map of 42_video_decode.md R164 (c)). -/
def State.overlaid (s : State) (n : Nat) (old : Byte) (row col : Nat) : Byte :=
  if row < 224 ∧ 1 ≤ col ∧ col ≤ 256 ∧ 256 * row + (256 - col) < n ∧ s.frameBit (256 * row + (256 - col)) = true then
    255#8 else old

/-- The source bit a raster element shows: the inverse map of 42_video_decode.md R164 (c), false in column 0 and outside
the picture. -/
def State.lit (s : State) (row col : Nat) : Bool :=
  decide (row < 224 ∧ 1 ≤ col ∧ col ≤ 256) && s.sourceBit row ((256 - col) / 8) ((256 - col) % 8)

/-- The sum of the costs of the instructions. -/
def totalCost (l : List CpuInstr) : Nat := (l.map CpuInstr.cost).sum

/-- The state a step or a meaning goes on to, none where it stops. -/
def nextState (o : Host.Outcome State Fault Refusal) : Option State :=
  match o with
  | .next t => some t
  | .fault _ => none
  | .refused _ => none

/-- `n` steps, stopping at the first fault or refusal. -/
def runSteps : Nat → State → Host.Outcome State Fault Refusal
  | 0, s => .next s
  | n + 1, s =>
    match step s with
    | .next t => runSteps n t
    | .fault r => .fault r
    | .refused r => .refused r

/-- The vector of a phase's interrupt (43_scheduler.md R183, R184). -/
def State.vector (s : State) : Nat :=
  match s.sched.phase with
  | .mid => s.cfg.vecMid
  | .fin => s.cfg.vecEnd

/-- The kind of the last event of a queue whose key is mapped to action `a` (43_scheduler.md R189: "the later event
decides the bit"). -/
def lastKind (c : Config) (events : List Event) (a : Action) : Option EventKind :=
  ((events.filter fun e => c.actionOf e.key == some a).getLast?).map Event.kind

/-- The bit an event of this kind writes: press sets and release clears, the coin action the other way round
(10_state.md R24). -/
def writtenBit (k : EventKind) (a : Action) : Bool := (k == .down) != (a == .coin)

end Machine

end Sys2Proof
end

