-- ==== Sys2Proof/Certificates/Slice0/Obligations.lean ====
section
/-! DEFINITION. What the provers are asked: the statements of OBLIGATIONS.json. Each docstring names the part of the spec
it formalises. Every statement holds for every configuration, so for every injective `SWBIT` where it says `cfg.wf`. -/

open Sys2Proof Sys2Proof.Machine

/-! ### Words (30_encoding.md) -/

/-- 30_encoding.md sections 1 and 2: the word of a well-formed operation is read back as that operation, every operand
with it. -/
def Obligations.DecodeOfEncodeIsTheInstruction : Prop :=
  ∀ i : Instr, i.wf = true → decode (encode i) = .ok i

/-- 30_encoding.md sections 1 and 2: what the decoder reads is well formed, and its word is the word read, but for the `v`
bits of a port read, which are no input. -/
def Obligations.EncodeOfDecodeIsTheWord : Prop :=
  ∀ (t : Txn) (i : Instr), decode t = .ok i →
    i.wf = true ∧
      (encode i = t ∨ ∃ w : BitVec 17, t = .bus w ∧ w.getLsbD 16 = false ∧ encode i = .bus (w &&& 0x1FF00#17))

/-- 30_encoding.md section 3: exactly the words no component issues are refused, under whatever name, each by its own name,
and a step that meets one is refused. -/
def Obligations.NeverIssuedWordsAreRefused : Prop :=
  (∀ w : BitVec 5, (9 ≤ (w.extractLsb' 0 4).toNat ↔ ∃ r, decode (.key w) = .error r) ∧
    (9 ≤ (w.extractLsb' 0 4).toNat → decode (.key w) = .error (.keyIdUnused (w.extractLsb' 0 4)))) ∧
  (∀ w : BitVec 16, (224 ≤ (w.extractLsb' 8 8).toNat ↔ ∃ r, decode (.video w) = .error r) ∧
    (224 ≤ (w.extractLsb' 8 8).toNat → decode (.video w) = .error (.pixelOutsideFrame (w.extractLsb' 8 8)))) ∧
  (∀ w : BitVec 2, (w = 3#2 ↔ ∃ r, decode (.raster w) = .error r) ∧
    (w = 3#2 → decode (.raster w) = .error .rasterReserved)) ∧
  (∀ w : BitVec 4, ((w.extractLsb' 1 3 = 0#3 ∨ w.extractLsb' 1 3 = 7#3) ↔ ∃ r, decode (.sched w) = .error r) ∧
    ((w.extractLsb' 1 3 = 0#3 ∨ w.extractLsb' 1 3 = 7#3) →
      decode (.sched w) = .error (.stepUnused (w.extractLsb' 1 3)))) ∧
  (∀ w : BitVec 17, ∃ i, decode (.bus w) = .ok i) ∧
  (∀ w : BitVec 5, ∃ i, decode (.event w) = .ok i) ∧
  (∀ (s : State) (r : Reject), s.running = true → decode (hostTurn s).nextWord = .error r →
    step s = .refused (.neverIssued r))

/-- 30_encoding.md section 1 and 95_test_vectors.md: words written out from the spec's encodings, one or more of each
format. -/
def Obligations.SpecWordsDecode : Prop :=
  decode (.bus 0x00300#17) = .ok .in3 ∧ decode (.bus 0x1020B#17) = .ok (.out2 0x0B#8) ∧
  decode (.bus 0x104A5#17) = .ok (.out4 0xA5#8) ∧ decode (.bus 0x0FF00#17) = .ok (.inUnimpl 255#8) ∧
  decode (.bus 0x10112#17) = .ok (.outUnimpl 1#8 0x12#8) ∧ decode (.key 0x15#5) = .ok (.keySet .p1Fire) ∧
  decode (.key 0x00#5) = .ok (.keyClr .coin) ∧ decode (.event 0x18#5) = .ok .releaseP2Fire ∧
  decode (.event 0x1F#5) = .ok (.eventNone .up 15#4) ∧ decode (.video 0x91A3#16) = .ok (.pixel 145#8 20#5 3#3) ∧
  decode (.raster 1#2) = .ok .decodePass ∧ decode (.sched 0b0100#4) = .ok .intrMid ∧
  decode (.sched 0b1011#4) = .ok (.drain .fin)

/-! ### Ports (40_port_io.md) -/

/-- 40_port_io.md section 1: `IN 1` hands the CPU `inreg[7:0]`, `IN 2` hands it `inreg[15:8]`, whatever the word's `v`;
nothing of the block changes. -/
def Obligations.InputPortReads : Prop :=
  ∀ s : State, s.running = true →
    (∀ v : Byte, decode (.bus (0#1 ++ 1#8 ++ v)) = .ok .in1 ∧ decode (.bus (0#1 ++ 2#8 ++ v)) = .ok .in2) ∧
    exec .in1 s = .next { s with cpu := { s.cpu with received := s.io.inreg.extractLsb' 0 8 :: s.cpu.received } } ∧
    exec .in2 s = .next { s with cpu := { s.cpu with received := s.io.inreg.extractLsb' 8 8 :: s.cpu.received } }

/-- 40_port_io.md section 1: `IN 3` hands the CPU the low 8 bits of `{high, low}` shifted right by `8 - offset`; of its
bits, `offset` many come from `low` and the others from `high`; nothing of the block changes. -/
def Obligations.ShiftWindowRead : Prop :=
  ∀ s : State, s.running = true →
    ∃ b : Byte,
      exec .in3 s = .next { s with cpu := { s.cpu with received := b :: s.cpu.received } } ∧
      b = ((s.io.high ++ s.io.low) >>> (8 - s.io.offset.toNat)).extractLsb' 0 8 ∧
      (∀ i, i < 8 → b.getLsbD i =
        if i < s.io.offset.toNat then s.io.low.getLsbD (8 - s.io.offset.toNat + i)
        else s.io.high.getLsbD (i - s.io.offset.toNat)) ∧
      (s.io.offset = 0#3 → b = s.io.high) ∧
      ∀ v : Byte, decode (.bus (0#1 ++ 3#8 ++ v)) = .ok .in3

/-- 40_port_io.md section 3: the three forms of the shift window agree for every `high`, `low` and `offset`. -/
def Obligations.ShiftWindowForms : Prop :=
  ∀ c : Controller,
    c.window = (((c.high.setWidth 16 <<< 8) ||| c.low.setWidth 16) >>> (8 - c.offset.toNat)).setWidth 8 ∧
    c.window = (c.high <<< c.offset.toNat) ||| (c.low >>> (8 - c.offset.toNat)) ∧
    c.window = ((((c.high.setWidth 16 <<< 8) ||| c.low.setWidth 16) <<< c.offset.toNat) >>> 8).setWidth 8

/-- 40_port_io.md section 1, 60_exceptions.md section 1: a read of a port other than 1, 2, 3 selects `IN.UNIMPL`, which
raises `UnknownPortRead(p)`, code 1: `fault` holds it, nothing else is written, and no operation follows. -/
def Obligations.UnknownPortReadFaults : Prop :=
  ∀ (s : State) (p : Port) (v : Byte), s.running = true → p ≠ 1#8 → p ≠ 2#8 → p ≠ 3#8 →
    decode (.bus (0#1 ++ p ++ v)) = .ok (.inUnimpl p) ∧
    exec (.inUnimpl p) s = .next { s with fault := some (.unknownPortRead p) } ∧
    (FaultRecord.unknownPortRead p).code = 1 ∧
    step { s with fault := some (.unknownPortRead p) } = .fault (.faulted (.unknownPortRead p))

/-- R104: `OUT 2, v` stores `v & 0x07`, that is `v mod 8`, and nothing else; writing it again changes nothing, and the very
next `IN 3` uses it. -/
def Obligations.OffsetWriteKeepsThreeBits : Prop :=
  ∀ (s : State) (v : Byte), s.running = true →
    decode (.bus (0x10200#17 ||| v.setWidth 17)) = .ok (.out2 v) ∧
    exec (.out2 v) s = .next { s with io := { s.io with offset := (v &&& 0x07#8).setWidth 3 } } ∧
    ((v &&& 0x07#8).setWidth 3 : BitVec 3).toNat = v.toNat % 8 ∧
    exec (.out2 v) { s with io := { s.io with offset := (v &&& 0x07#8).setWidth 3 } } =
      .next { s with io := { s.io with offset := (v &&& 0x07#8).setWidth 3 } } ∧
    (∃ t, exec .in3 { s with io := { s.io with offset := (v &&& 0x07#8).setWidth 3 } } = .next t ∧
      t.cpu.received = ((s.io.high ++ s.io.low) >>> (8 - v.toNat % 8)).extractLsb' 0 8 :: s.cpu.received) ∧
    exec (.out2 0x0B#8) s = .next { s with io := { s.io with offset := 3#3 } }

/-- R105, R107, R108: a write to port 3, 5 or 6 is accepted for every `v` and changes nothing; a read of port 5 or 6
faults. -/
def Obligations.ReservedWritesHaveNoEffect : Prop :=
  ∀ (s : State) (v : Byte), s.running = true →
    (decode (.bus (0x10300#17 ||| v.setWidth 17)) = .ok (.out3 v) ∧ exec (.out3 v) s = .next s) ∧
    (decode (.bus (0x10500#17 ||| v.setWidth 17)) = .ok (.out5 v) ∧ exec (.out5 v) s = .next s) ∧
    (decode (.bus (0x10600#17 ||| v.setWidth 17)) = .ok (.out6 v) ∧ exec (.out6 v) s = .next s) ∧
    (∃ t, exec (.inUnimpl 5#8) s = .next t ∧ t.fault = some (.unknownPortRead 5#8)) ∧
    (∃ t, exec (.inUnimpl 6#8) s = .next t ∧ t.fault = some (.unknownPortRead 6#8)) ∧
    decode (.bus 0x00500#17) = .ok (.inUnimpl 5#8) ∧ decode (.bus 0x00600#17) = .ok (.inUnimpl 6#8)

/-- R106: `OUT 4, v` moves `high` to `low` and `v` to `high`, in one step and nothing else; two of them load all 16 bits
whatever the state before, and the same byte written twice fills both. -/
def Obligations.ShiftInMovesHighToLow : Prop :=
  ∀ (s : State) (v w : Byte), s.running = true →
    decode (.bus (0x10400#17 ||| v.setWidth 17)) = .ok (.out4 v) ∧
    exec (.out4 v) s = .next { s with io := { s.io with low := s.io.high, high := v } } ∧
    exec (.out4 w) { s with io := { s.io with low := s.io.high, high := v } } =
      .next { s with io := { s.io with low := v, high := w } }

/-- R109: a write to a port other than 2 to 6 selects `OUT.UNIMPL`, which raises `UnknownPortWrite(p)`, code 2; `v` is
stored nowhere. -/
def Obligations.UnknownPortWriteFaults : Prop :=
  ∀ (s : State) (p : Port) (v : Byte), s.running = true → p ≠ 2#8 → p ≠ 3#8 → p ≠ 4#8 → p ≠ 5#8 → p ≠ 6#8 →
    decode (.bus (1#1 ++ p ++ v)) = .ok (.outUnimpl p v) ∧
    exec (.outUnimpl p v) s = .next { s with fault := some (.unknownPortWrite p) } ∧
    (FaultRecord.unknownPortWrite p).code = 2

/-- 40_port_io.md section 4: a port access the CPU makes inside `ExecuteOne()` is the port operation its bus word
selects. -/
def Obligations.CpuPortAccessIsTheBusOperation : Prop :=
  ∀ (s : State) (p : Port) (v : Byte) (i j : Instr), s.running = true →
    decode (.bus (0#1 ++ p ++ v)) = .ok i → decode (.bus (1#1 ++ p ++ v)) = .ok j →
    exec i s = .next (cpuAct (.read p) s) ∧ exec j s = .next (cpuAct (.write p v) s)

/-! ### Keys and events (41_input_events.md) -/

/-- R130, R131: `KEYSET a` sets and `KEYCLR a` clears bit `SWBIT(a)` of `inreg` and changes nothing else, so an unassigned
bit that is 0 stays 0; on a bit that holds the value already they change nothing at all. The two bits named at the end are
the defaults of the rules' examples, the spec's decision D4 (log entry 2). -/
def Obligations.KeyOperationsWriteOneBit : Prop :=
  ∀ (s : State) (a : Action), s.running = true →
    decode (.key (1#1 ++ a.toId)) = .ok (.keySet a) ∧
    exec (.keySet a) s = .next { s with io := { s.io with inreg := s.io.inreg ||| (1#16 <<< s.cfg.bit a) } } ∧
    (s.io.inreg.getLsbD (s.cfg.bit a) = true → exec (.keySet a) s = .next s) ∧
    (s.io.inreg &&& ~~~ s.cfg.assigned = 0#16 →
      (s.io.inreg ||| (1#16 <<< s.cfg.bit a)) &&& ~~~ s.cfg.assigned = 0#16) ∧
    decode (.key (0#1 ++ a.toId)) = .ok (.keyClr a) ∧
    exec (.keyClr a) s = .next { s with io := { s.io with inreg := s.io.inreg &&& ~~~ (1#16 <<< s.cfg.bit a) } } ∧
    (s.io.inreg.getLsbD (s.cfg.bit a) = false → exec (.keyClr a) s = .next s) ∧
    Config.default.bit .p1Fire = 4 ∧ Config.default.bit .coin = 0

/-- 41_input_events.md section 2: the coin action is inverted: its press clears the coin bit, its release sets it, and
either changes nothing else. -/
def Obligations.CoinActionIsInverted : Prop :=
  ∀ s : State, s.running = true →
    decode (.event 0b00000#5) = .ok .pressCoin ∧ decode (.event 0b10000#5) = .ok .releaseCoin ∧
    exec .pressCoin s = .next { s with io := { s.io with inreg := s.io.inreg &&& ~~~ (1#16 <<< s.cfg.bit .coin) } } ∧
    exec .releaseCoin s = .next { s with io := { s.io with inreg := s.io.inreg ||| (1#16 <<< s.cfg.bit .coin) } } ∧
    (s.io.inreg.getLsbD (s.cfg.bit .coin) = false → exec .pressCoin s = .next s) ∧
    (s.io.inreg.getLsbD (s.cfg.bit .coin) = true → exec .releaseCoin s = .next s)

/-- R134, R136, R138, R140, R142, R144, R146, R148: the press of each of the eight normal actions sets its bit and changes
nothing else, so no bit of another action; pressing a pressed switch changes nothing. The last component is the default
bit of the rule's example, which is the spec's decision D4 (log entry 2). -/
def Obligations.NormalPressSetsItsBit : Prop :=
  ∀ s : State, s.running = true →
    ∀ x ∈ [(Instr.pressP1Start, Action.p1Start, 0b00001#5, 2), (Instr.pressP2Start, Action.p2Start, 0b00010#5, 1),
      (Instr.pressP1Left, Action.p1Left, 0b00011#5, 5), (Instr.pressP1Right, Action.p1Right, 0b00100#5, 6),
      (Instr.pressP1Fire, Action.p1Fire, 0b00101#5, 4), (Instr.pressP2Left, Action.p2Left, 0b00110#5, 13),
      (Instr.pressP2Right, Action.p2Right, 0b00111#5, 14), (Instr.pressP2Fire, Action.p2Fire, 0b01000#5, 12)],
    decode (.event x.2.2.1) = .ok x.1 ∧
    exec x.1 s = .next { s with io := { s.io with inreg := s.io.inreg ||| (1#16 <<< s.cfg.bit x.2.1) } } ∧
    (s.io.inreg.getLsbD (s.cfg.bit x.2.1) = true → exec x.1 s = .next s) ∧
    (s.cfg.wf → ∀ b : Action, b ≠ x.2.1 →
      (s.io.inreg ||| (1#16 <<< s.cfg.bit x.2.1)).getLsbD (s.cfg.bit b) = s.io.inreg.getLsbD (s.cfg.bit b)) ∧
    Config.default.bit x.2.1 = x.2.2.2

/-- R135, R137, R139, R141, R143, R145, R147, R149: the release of each of the eight normal actions clears its bit and
changes nothing else; releasing a released switch changes nothing. The last component is the default bit of
the rule's example, which is the spec's decision D4 (log entry 2). -/
def Obligations.NormalReleaseClearsItsBit : Prop :=
  ∀ s : State, s.running = true →
    ∀ x ∈ [(Instr.releaseP1Start, Action.p1Start, 0b10001#5, 2), (Instr.releaseP2Start, Action.p2Start, 0b10010#5, 1),
      (Instr.releaseP1Left, Action.p1Left, 0b10011#5, 5), (Instr.releaseP1Right, Action.p1Right, 0b10100#5, 6),
      (Instr.releaseP1Fire, Action.p1Fire, 0b10101#5, 4), (Instr.releaseP2Left, Action.p2Left, 0b10110#5, 13),
      (Instr.releaseP2Right, Action.p2Right, 0b10111#5, 14), (Instr.releaseP2Fire, Action.p2Fire, 0b11000#5, 12)],
    decode (.event x.2.2.1) = .ok x.1 ∧
    exec x.1 s = .next { s with io := { s.io with inreg := s.io.inreg &&& ~~~ (1#16 <<< s.cfg.bit x.2.1) } } ∧
    (s.io.inreg.getLsbD (s.cfg.bit x.2.1) = false → exec x.1 s = .next s) ∧
    Config.default.bit x.2.1 = x.2.2.2

/-- 41_input_events.md section 4: an event word whose `a` is 9 to 15 selects `EVENT.NONE`, which changes nothing. -/
def Obligations.EventWithNoActionHasNoEffect : Prop :=
  ∀ (s : State) (k : EventKind) (a : BitVec 4), s.running = true → 9 ≤ a.toNat →
    decode (.event (k.toBit ++ a)) = .ok (.eventNone k a) ∧ exec (.eventNone k a) s = .next s

/-- 41_input_events.md section 5: for every injective `SWBIT` each of the eighteen mapped events writes its action's own
bit, with the value of its polarity, and no other bit, so none of another action. -/
def Obligations.MappedEventWritesOnlyItsOwnBit : Prop :=
  ∀ (s : State) (k : EventKind) (a : Action), s.running = true → s.cfg.wf →
    ∃ t, exec (eventInstr k a) s = .next t ∧
      t.io.inreg.getLsbD (s.cfg.bit a) = ((k == .down) != (a == .coin)) ∧
      (∀ j, j ≠ s.cfg.bit a → t.io.inreg.getLsbD j = s.io.inreg.getLsbD j) ∧
      (∀ b : Action, b ≠ a → t.io.inreg.getLsbD (s.cfg.bit b) = s.io.inreg.getLsbD (s.cfg.bit b)) ∧
      t = { s with io := { s.io with inreg := t.io.inreg } }

/-! ### Video (42_video_decode.md) -/

/-- 42_video_decode.md sections 1 and 2: `PIXEL` lights the destination of its source bit if the bit is set, leaves it as
it was if not, and changes no other element and nothing else of the state. The raster may have any extent that holds that
destination, or any at all where the bit is clear. -/
def Obligations.PixelWritesItsDestination : Prop :=
  ∀ (s : State) (col : BitVec 8) (b : BitVec 5) (i : BitVec 3), s.running = true → col.toNat < 224 →
    ((s.mem.read (s.cfg.vramBase.val + 32 * col.toNat + b.toNat)).getLsbD i.toNat = true →
      col.toNat < s.cfg.rasterRows ∧ 256 - (8 * b.toNat + i.toNat) < s.cfg.rasterCols) →
    Memory.wf (s.cfg.rasterRows * s.cfg.rasterCols) s.raster →
    decode (.video (col ++ b ++ i)) = .ok (.pixel col b i) ∧
    ∃ t, exec (.pixel col b i) s = .next t ∧
      t = { s with raster := t.raster } ∧
      (∀ r c, r < s.cfg.rasterRows → c < s.cfg.rasterCols →
        t.pixelAt r c =
          if r = col.toNat ∧ c = 256 - (8 * b.toNat + i.toNat) ∧
            (s.mem.read (s.cfg.vramBase.val + 32 * col.toNat + b.toNat)).getLsbD i.toNat = true
          then 255#8 else s.pixelAt r c)

/-- 30_encoding.md section 3: a `PIXEL` of a column outside the frame buffer, which nothing issues, is refused. -/
def Obligations.PixelOutsideTheFrameIsRefused : Prop :=
  ∀ (s : State) (col : BitVec 8) (b : BitVec 5) (i : BitVec 3), 224 ≤ col.toNat →
    exec (.pixel col b i) s = .refused (.neverIssued (.pixelOutsideFrame col))

/-- 42_video_decode.md section 2: in a raster too small for it, a set source bit raises `RasterOutOfBounds` with its
destination, code 3, and writes no element. -/
def Obligations.PixelOutOfBoundsFaults : Prop :=
  ∀ (s : State) (col : BitVec 8) (b : BitVec 5) (i : BitVec 3), s.running = true → col.toNat < 224 →
    (s.mem.read (s.cfg.vramBase.val + 32 * col.toNat + b.toNat)).getLsbD i.toNat = true →
    ¬ (col.toNat < s.cfg.rasterRows ∧ 256 - (8 * b.toNat + i.toNat) < s.cfg.rasterCols) →
    exec (.pixel col b i) s =
      .next { s with fault := some (.rasterOutOfBounds col.toNat (256 - (8 * b.toNat + i.toNat))) } ∧
    (FaultRecord.rasterOutOfBounds col.toNat (256 - (8 * b.toNat + i.toNat))).code = 3

/-- 42_video_decode.md sections 2 and 3: a decode pass lights exactly the destinations of the set source bits, over
whatever the raster held: no element is darkened, and nothing else of the state changes. The raster has any extent that
holds the destinations of the set bits; the default extent holds all. -/
def Obligations.DecodePassOverlaysTheFrameBuffer : Prop :=
  (∀ c : Config, c.fits → ∀ n, n < 57344 → c.holds n = true) ∧
  ∀ s : State, s.running = true → s.drawable → Memory.wf (s.cfg.rasterRows * s.cfg.rasterCols) s.raster →
    ∃ t, exec .decodePass s = .next t ∧ t = { s with raster := t.raster } ∧
      ∀ r c, r < s.cfg.rasterRows → c < s.cfg.rasterCols →
        t.pixelAt r c =
          if r < 224 ∧ 1 ≤ c ∧ c ≤ 256 ∧
            (s.mem.read (s.cfg.vramBase.val + 32 * r + (256 - c) / 8)).getLsbD ((256 - c) % 8) = true
          then 255#8 else s.pixelAt r c

/-- 42_video_decode.md section 2: in a raster of any extent a decode pass changes nothing but the raster and the fault. It
raises a fault exactly where the destination of a set source bit lies outside: that of the first such bit in the order of
the pass, and then exactly the set bits before it are lit, over what the raster held. -/
def Obligations.DecodePassFaultsOnlyOutOfBounds : Prop :=
  ∀ s : State, s.running = true →
    ∃ t, exec .decodePass s = .next t ∧ t = { s with raster := t.raster, fault := t.fault } ∧
      (s.drawable → t.fault = none) ∧
      ∀ n, n < 57344 → s.frameBit n = true → s.cfg.holds n = false →
        (∀ m, m < n → s.frameBit m = true → s.cfg.holds m = true) →
        t.fault = some (.rasterOutOfBounds (n / 256) (256 - n % 256)) ∧
        (Memory.wf (s.cfg.rasterRows * s.cfg.rasterCols) s.raster →
          ∀ r c, r < s.cfg.rasterRows → c < s.cfg.rasterCols → t.pixelAt r c = s.overlaid n (s.pixelAt r c) r c)

/-- 42_video_decode.md section 2: `CLEAR` makes every element 0 and changes nothing else. -/
def Obligations.ClearDarkensEveryElement : Prop :=
  ∀ s : State, s.running = true →
    ∃ t, exec .clear s = .next t ∧ t = { s with raster := t.raster } ∧ (∀ r c, t.pixelAt r c = 0#8) ∧
      decode (.raster 0b00#2) = .ok .clear

/-- 42_video_decode.md section 2: `PRESENT` copies the raster to `presented`; the raster itself is unchanged. -/
def Obligations.PresentCopiesTheRaster : Prop :=
  ∀ s : State, s.running = true →
    decode (.raster 0b10#2) = .ok .present ∧ exec .present s = .next { s with presented := some s.raster }

/-- 43_scheduler.md section 2, 42_video_decode.md section 2: `FRAME` clears, decodes and presents: `presented` and `raster`
are then the image of the frame buffer, a function of its 7168 bytes alone; the memory is as it was and the scheduler is
at step 5. The raster has any extent that holds the destinations of the set bits. -/
def Obligations.FramePresentsTheFrameBuffer : Prop :=
  ∀ s : State, s.running = true → s.drawable →
    ∃ t, exec .frame s = .next t ∧ t.presented = some t.raster ∧
      t = { s with raster := t.raster, presented := t.presented, sched := { s.sched with sstep := .five } } ∧
      ∀ r c, r < s.cfg.rasterRows → c < s.cfg.rasterCols →
        t.pixelAt r c =
          if r < 224 ∧ 1 ≤ c ∧ c ≤ 256 ∧
            (s.mem.read (s.cfg.vramBase.val + 32 * r + (256 - c) / 8)).getLsbD ((256 - c) % 8) = true
          then 255#8 else 0#8

/-- 60_exceptions.md section 1: where the pass over the cleared raster faults, `FRAME` ends there with that fault: nothing is
presented, the step does not advance, and the pixels lit before the fault stay (the last is the model's reading, log entry
14); and a faulted `FRAME` is no other. -/
def Obligations.FrameFaultPresentsNothing : Prop :=
  (∀ s u : State, s.running = true → exec .decodePass { s with raster := [] } = .next u → u.fault ≠ none →
    exec .frame s = .next { s with raster := u.raster, fault := u.fault }) ∧
  ∀ s t : State, exec .frame s = .next t → t.fault ≠ none →
    t = { s with raster := t.raster, fault := t.fault } ∧
    ∃ u, exec .decodePass { s with raster := [] } = .next u ∧ t.raster = u.raster ∧ t.fault = u.fault

/-! ### The scheduler (43_scheduler.md) -/

/-- 43_scheduler.md section 2, 60_exceptions.md section 3: `SLICE` always goes on to a state; in it the Input Register, the
phase, the queue, the quit latch, the raster, the image shown and the vectors delivered are what they were; and unless a
port access faulted the scheduler is at step 2 exactly where the budget is met. That it stands inside the slice otherwise,
with the slice to go on in the next step, is the model's choice (log entry 6): the rule ends `SLICE` at the budget alone. -/
def Obligations.SliceLeavesTheRestAlone : Prop :=
  ∀ (s : State) (ph : Phase), s.running = true →
    ∃ t, exec (.slice ph) s = .next t ∧
      t.cfg = s.cfg ∧ t.io.inreg = s.io.inreg ∧ t.sched.phase = s.sched.phase ∧ t.quit = s.quit ∧
      t.events = s.events ∧ t.raster = s.raster ∧ t.presented = s.presented ∧ t.host = s.host ∧ t.txn = s.txn ∧
      t.ended = s.ended ∧ t.cpu.vectors = s.cpu.vectors ∧ t.cpu.responses = s.cpu.responses ∧
      (t.fault ≠ none → t.sched.sstep = s.sched.sstep) ∧
      (t.fault = none → s.cfg.budget ≤ t.sched.cyc → t.sched.sstep = .two ∧ t.sched.inSlice = false) ∧
      (t.fault = none → t.sched.cyc < s.cfg.budget → t.sched.sstep = s.sched.sstep ∧ t.sched.inSlice = true)

/-- 43_scheduler.md section 2: a slice begun on a CPU whose supplied instructions access implemented ports only and whose
costs reach the budget executes the shortest run of them that meets it, one at least: `cyc` is their cost, the excess is
what the last one adds, and none is split or skipped. The shift registers, the memory and the bytes received are those
their accesses leave, made one after another. -/
def Obligations.SliceRunsToTheBudget : Prop :=
  ∀ (s : State) (ph : Phase), s.running = true → s.sched.inSlice = false → 1 ≤ s.cfg.budget →
    (∀ c ∈ s.cpu.supplied, c.ok = true) → s.cfg.budget ≤ totalCost s.cpu.supplied →
    ∃ t n, exec (.slice ph) s = .next t ∧ t.fault = none ∧ t.sched.sstep = .two ∧
      1 ≤ n ∧ n ≤ s.cpu.supplied.length ∧ t.cpu.supplied = s.cpu.supplied.drop n ∧
      t.sched.cyc = totalCost (s.cpu.supplied.take n) ∧ s.cfg.budget ≤ t.sched.cyc ∧
      totalCost (s.cpu.supplied.take (n - 1)) < s.cfg.budget ∧ t.cpu.draws = s.cpu.draws ∧
      t.io = ((s.cpu.supplied.take n).foldl (fun x c => cpuActs c.acts x) s).io ∧
      t.mem = ((s.cpu.supplied.take n).foldl (fun x c => cpuActs c.acts x) s).mem ∧
      t.cpu.received = ((s.cpu.supplied.take n).foldl (fun x c => cpuActs c.acts x) s).cpu.received

/-- 60_exceptions.md section 1, 43_scheduler.md section 2: a read or a write of an unimplemented port inside an instruction
ends the slice there: the fault is recorded, `cyc` keeps its value before that instruction, the step does not advance, the
CPU gets no byte from a faulting read, and no later access or instruction is executed. That the accesses of the same
instruction before the faulting one stay done is the model's reading (log entry 15). -/
def Obligations.PortFaultEndsTheSlice : Prop :=
  ∀ (s : State) (ph : Phase) (pre rest : List CpuInstr) (earlier later : List CpuAct) (bad : CpuAct) (cost : Nat),
    s.running = true → s.sched.inSlice = false → (∀ c ∈ pre, c.ok = true) → totalCost pre < s.cfg.budget →
    earlier.all CpuAct.ok = true → bad.ok = false →
    s.cpu.supplied = pre ++ ⟨earlier ++ bad :: later, cost⟩ :: rest →
    ∃ t x, exec (.slice ph) s = .next t ∧ x = cpuActs earlier (pre.foldl (fun x c => cpuActs c.acts x) s) ∧
      (∀ p, bad = .read p → t.fault = some (.unknownPortRead p)) ∧
      (∀ p v, bad = .write p v → t.fault = some (.unknownPortWrite p)) ∧ t.fault ≠ none ∧
      t.sched.cyc = totalCost pre ∧ t.sched.sstep = s.sched.sstep ∧ t.cpu.supplied = rest ∧
      t.io = x.io ∧ t.mem = x.mem ∧ t.cpu.received = x.cpu.received

/-- 43_scheduler.md section 1: a store of the CPU writes its one byte of memory and no other; here in an instruction that
meets the budget. -/
def Obligations.CpuStoreWritesOneByte : Prop :=
  ∀ (s : State) (ph : Phase) (a : Addr) (v : Byte) (cost : Nat), s.running = true → s.sched.inSlice = false →
    1 ≤ s.cfg.budget → s.cfg.budget ≤ cost → Memory.wf addrSpace s.mem →
    s.cpu.supplied = [⟨[.store a v], cost⟩] →
    ∃ t, exec (.slice ph) s = .next t ∧ t.sched.sstep = .two ∧ t.sched.cyc = cost ∧ t.io = s.io ∧
      t.mem.read a.toNat = v ∧ (∀ x, x ≠ a.toNat → t.mem.read x = s.mem.read x) ∧ Memory.wf addrSpace t.mem

/-- 43_scheduler.md sections 1 and 2: `INTR.MID` and `INTR.END` hand the CPU their own vector and go to step 3; of the
state, only the executor's side and the memory it writes may change, and where the state supplies what the CPU writes,
exactly that is written. -/
def Obligations.InterruptDeliversItsVector : Prop :=
  ∀ (s : State), s.running = true →
    ∀ x ∈ [(Instr.intrMid, s.cfg.vecMid), (Instr.intrEnd, s.cfg.vecEnd)],
    ∃ t, exec x.1 s = .next t ∧ t.cpu.vectors = x.2 :: s.cpu.vectors ∧
      t.cpu.received = s.cpu.received ∧ t.cpu.supplied = s.cpu.supplied ∧
      t = { s with sched := { s.sched with sstep := .three }, cpu := t.cpu, mem := t.mem } ∧
      (∀ r rest, s.cpu.responses = r :: rest →
        t.mem = s.mem.writeAll r ∧ t.cpu.responses = rest ∧ t.cpu.draws = s.cpu.draws)

/-- R185: `TOGGLE` flips the phase and goes to step 4, and nothing else changes; no other operation changes the phase, and
the delivery, which comes before the toggle, leads to step 3. -/
def Obligations.ToggleFlipsThePhase : Prop :=
  ∀ (s : State) (ph : Phase), s.running = true →
    decode (.sched (0b011#3 ++ ph.toBit)) = .ok (.toggle ph) ∧
    exec (.toggle ph) s =
      .next { s with sched :=
        { s.sched with phase := if s.sched.phase = .mid then .fin else .mid, sstep := .four } } ∧
    (∀ (i : Instr) (t : State), (∀ p, i ≠ .toggle p) → exec i s = .next t → t.sched.phase = s.sched.phase) ∧
    (∀ i ∈ [Instr.intrMid, Instr.intrEnd], ∃ t, exec i s = .next t ∧ t.sched.sstep = .three)

/-- 43_scheduler.md section 2: `FRAME.SKIP` draws nothing: it goes to step 5 and nothing else changes. -/
def Obligations.FrameSkipDrawsNothing : Prop :=
  ∀ s : State, s.running = true →
    decode (.sched 0b1001#4) = .ok .frameSkip ∧
    exec .frameSkip s = .next { s with sched := { s.sched with sstep := .five } }

/-- 43_scheduler.md section 2: `DRAIN` empties the queue and goes to step 6; each action's bit is then what the last event
on it wrote, by its polarity, unchanged where no event was on it; no bit of no action changes, nor anything else. -/
def Obligations.DrainAppliesTheLastEventOfEachAction : Prop :=
  ∀ (s : State) (ph : Phase), s.running = true → s.cfg.wf →
    ∃ t, exec (.drain ph) s = .next t ∧
      t = { s with events := [], sched := { s.sched with sstep := .six }, io := { s.io with inreg := t.io.inreg } } ∧
      (∀ a : Action, t.io.inreg.getLsbD (s.cfg.bit a) =
        match lastKind s.cfg s.events a with
        | none => s.io.inreg.getLsbD (s.cfg.bit a)
        | some k => writtenBit k a) ∧
      (∀ j, (∀ a : Action, j ≠ s.cfg.bit a) → t.io.inreg.getLsbD j = s.io.inreg.getLsbD j)

/-- 43_scheduler.md section 2: `QUITCHK` ends the run with success if `quit` is set, and goes to step 1 if not; nothing
else changes. An ended run performs no further step. -/
def Obligations.QuitCheckEndsTheRun : Prop :=
  ∀ (s : State) (ph : Phase), s.running = true →
    (s.quit = true → exec (.quitChk ph) s = .next { s with ended := true } ∧
      step { s with ended := true } = .refused .runOver) ∧
    (s.quit = false → exec (.quitChk ph) s = .next { s with sched := { s.sched with sstep := .one } })

/-- 43_scheduler.md section 3: the budget is the clock rate divided by twice the refresh rate, rounded down once; 16 666
with the defaults. -/
def Obligations.BudgetIsTheFloorOfTheRatio : Prop :=
  (∀ c : Config, 1 ≤ c.refreshHz →
    c.budget * (2 * c.refreshHz) ≤ c.clockHz ∧ c.clockHz < (c.budget + 1) * (2 * c.refreshHz)) ∧
  Config.default.budget = 16666

/-- 43_scheduler.md sections 2 and 3: the five steps after a slice deliver the interrupt of the phase the iteration began
with, flip the phase, draw if and only if it was End, drain, and come back to step 1; the shift registers are untouched
and the image shown is that of the memory at the end. -/
def Obligations.IterationAfterTheSlice : Prop :=
  ∀ s : State, s.running = true → s.txn = none → s.host = [] → s.quit = false → s.sched.inSlice = false →
    s.sched.sstep = .two → s.cfg.fits →
    ∃ t, runSteps 5 s = .next t ∧ t.running = true ∧ t.sched.sstep = .one ∧ t.sched.phase = s.sched.phase.other ∧
      t.cpu.vectors = s.vector :: s.cpu.vectors ∧ t.cpu.received = s.cpu.received ∧ t.events = [] ∧
      t.io.low = s.io.low ∧ t.io.high = s.io.high ∧ t.io.offset = s.io.offset ∧ t.cfg = s.cfg ∧
      (s.sched.phase = .mid → t.raster = s.raster ∧ t.presented = s.presented) ∧
      (s.sched.phase = .fin → t.presented = some t.raster ∧
        ∀ r c, r < s.cfg.rasterRows → c < s.cfg.rasterCols → t.pixelAt r c = if t.lit r c then 255#8 else 0#8)

/-- 43_scheduler.md section 3: with an executor that reports `k` ≥ 1 cycles for every call, two iterations from phase Mid
make ceil(budget / k) calls in each slice, deliver `VEC_MID` and then `VEC_END`, and draw once: nothing in the first, the
image of the memory in the second. -/
def Obligations.TwoTogglesDeliverTwoVectorsAndDrawOnce : Prop :=
  ∀ (s : State) (k n : Nat), s.running = true → s.txn = none → s.host = [] → s.quit = false →
    s.sched.inSlice = false → s.sched.sstep = .one → s.sched.phase = .mid → s.cfg.fits → 1 ≤ s.cfg.budget → 1 ≤ k →
    2 * ((s.cfg.budget + k - 1) / k) ≤ n → s.cpu.supplied = List.replicate n ⟨[], k⟩ →
    (∃ m, runSteps 6 s = .next m ∧ m.running = true ∧ m.sched.sstep = .one ∧ m.sched.phase = .fin ∧
      m.raster = s.raster ∧ m.presented = s.presented ∧ m.cpu.vectors = s.cfg.vecMid :: s.cpu.vectors ∧
      m.sched.cyc = k * ((s.cfg.budget + k - 1) / k) ∧
      m.cpu.supplied = List.replicate (n - (s.cfg.budget + k - 1) / k) ⟨[], k⟩) ∧
    ∃ t, runSteps 12 s = .next t ∧ t.running = true ∧ t.sched.sstep = .one ∧ t.sched.phase = .mid ∧
      t.cpu.vectors = s.cfg.vecEnd :: s.cfg.vecMid :: s.cpu.vectors ∧
      t.sched.cyc = k * ((s.cfg.budget + k - 1) / k) ∧
      t.cpu.supplied = List.replicate (n - 2 * ((s.cfg.budget + k - 1) / k)) ⟨[], k⟩ ∧
      t.presented = some t.raster ∧
      ∀ r c, r < s.cfg.rasterRows → c < s.cfg.rasterCols → t.pixelAt r c = if t.lit r c then 255#8 else 0#8

/-- 30_encoding.md section 4, 70_reset_and_hazards.md section 2: `SHIFTLOAD16` loads both registers whatever they held, and
`SHIFTREAD` after it hands the CPU the window of what was loaded alone, so of no reset value; `TAP` leaves the switch
released; `FRAMEPAIR` is the twelve step words of two iterations. -/
def Obligations.PseudoOperationsAreTheirSequences : Prop :=
  (∀ (s : State) (n : Nat) (lo hi : Byte), s.running = true →
    execAll n (shiftLoad16 lo hi) s = some (.next { s with io := { s.io with low := lo, high := hi } })) ∧
  (∀ (s : State) (n : Nat) (lo hi o : Byte), s.running = true →
    ∃ t, execAll n (shiftLoad16 lo hi ++ shiftRead o) s = some (.next t) ∧
      t.cpu.received = ((hi ++ lo) >>> (8 - o.toNat % 8)).extractLsb' 0 8 :: s.cpu.received) ∧
  (∀ (s : State) (n : Nat) (a : Action), s.running = true → s.cfg.wf →
    ∃ t, execAll n (tap a) s = some (.next t) ∧ t.io.inreg.getLsbD (s.cfg.bit a) = (a == .coin) ∧
      ∀ b : Action, b ≠ a → t.io.inreg.getLsbD (s.cfg.bit b) = s.io.inreg.getLsbD (s.cfg.bit b)) ∧
  framePair.map encode =
    [.sched 0b0010#4, .sched 0b0100#4, .sched 0b0110#4, .sched 0b1001#4, .sched 0b1011#4, .sched 0b1101#4,
      .sched 0b0011#4, .sched 0b0101#4, .sched 0b0111#4, .sched 0b1000#4, .sched 0b1010#4, .sched 0b1100#4]

/-- 43_scheduler.md section 3, 30_encoding.md section 4: `ITER` is a stretch of the loop: `SLICE` to its end, however many
of the model's steps that takes (log entries 6 and 20), then the interrupt, the toggle, the draw or none, the drain and the
exit check. Where the supplied instructions meet the budget, it goes on and is six steps. -/
def Obligations.IterRunsTheSliceToItsEnd : Prop :=
  (∀ (s t : State) (n : Nat), s.running = true → s.txn = none → s.host = [] → s.sched.inSlice = false →
    s.sched.sstep = .one → execAll n (iter s.sched.phase) s = some (.next t) →
    (∃ k, k ≤ n + 6 ∧ runSteps k s = .next t) ∧
    (t.fault = none → s.cfg.budget ≤ t.sched.cyc ∧ t.sched.inSlice = false ∧
      t.sched.phase = s.sched.phase.other ∧ t.cpu.vectors = s.vector :: s.cpu.vectors ∧ t.events = [] ∧
      (s.quit = true → t.ended = true) ∧ (s.quit = false → t.running = true ∧ t.sched.sstep = .one))) ∧
  (∀ (s : State) (n : Nat), s.running = true → s.txn = none → s.host = [] → s.sched.inSlice = false →
    s.sched.sstep = .one → s.cfg.fits → 1 ≤ s.cfg.budget → (∀ c ∈ s.cpu.supplied, c.ok = true) →
    s.cfg.budget ≤ totalCost s.cpu.supplied →
    ∃ t, execAll n (iter s.sched.phase) s = some (.next t) ∧ t.fault = none ∧ runSteps 6 s = .next t)

/-! ### The whole machine (10_state.md, 20_memory.md, 60_exceptions.md, 70_reset_and_hazards.md) -/

/-- A step of a run that is going is the host's turn (the batches are the model's choice, log entry 7) and then the
operation its next word decodes to, with the presented transaction taken (presenting one from outside the loop is the
model's choice, log entry 8). With none presented the word is the scheduler's own (`sstep`, `phase`), and so always an
operation: 43_scheduler.md section 3, 30_encoding.md section 1. -/
def Obligations.StepRunsTheDecodedInstruction : Prop :=
  (∀ (s : State) (i : Instr), s.running = true → decode (hostTurn s).nextWord = .ok i →
    step s = exec i { hostTurn s with txn := none }) ∧
  (∀ s : State, s.running = true → s.txn = none →
    step s = exec (schedInstr s.sched.sstep s.sched.phase) { hostTurn s with txn := none })

/-- The model's own rule (log entry 8): a word of the opcode table placed with `withFetchWord` is what the next step
performs. -/
def Obligations.PlacedWordRunsNext : Prop :=
  ∀ (s : State) (nbits w : Nat) (i : Instr), s.running = true → s.host = [] → decodeTableWord nbits w = some i →
    step (s.withFetchWord nbits w) = exec i { s.withFetchWord nbits w with txn := none }

/-- 60_exceptions.md section 1: a state with `fault` set has no successor: neither a step nor any operation changes it; and
a run that ended has none either. -/
def Obligations.FaultIsAbsorbing : Prop :=
  (∀ (s : State) (r : FaultRecord), s.fault = some r →
    step s = .fault (.faulted r) ∧ ∀ i : Instr, i.wf = true → exec i s = .fault (.faulted r)) ∧
  (∀ s : State, s.fault = none → s.ended = true →
    step s = .refused .runOver ∧ ∀ i : Instr, i.wf = true → exec i s = .refused .runOver)

/-- 60_exceptions.md section 1: the codes of the fault records (the numbers are the spec's decision D21). -/
def Obligations.FaultCodes : Prop :=
  ∀ (p : Port) (r c : Nat),
    (FaultRecord.unknownPortRead p).code = 1 ∧ (FaultRecord.unknownPortWrite p).code = 2 ∧
    (FaultRecord.rasterOutOfBounds r c).code = 3 ∧ FaultRecord.imageLoadFailure.code = 4 ∧
    FaultRecord.surfaceInitFailure.code = 5

/-- 60_exceptions.md section 1: the faults of the loop: a step of the scheduler can raise a port fault in step 1 and
`RasterOutOfBounds` in step 4, and no other; never a boot failure. -/
def Obligations.FaultsOfTheLoop : Prop :=
  ∀ (s t : State) (r : FaultRecord), s.txn = none → step s = .next t → t.fault = some r →
    (s.sched.sstep = .one ∧ (r.code = 1 ∨ r.code = 2)) ∨ (s.sched.sstep = .four ∧ s.sched.phase = .mid ∧ r.code = 3)

/-- 42_video_decode.md section 2: with a raster of the default extent, or a larger one, no step raises
`RasterOutOfBounds`. -/
def Obligations.RasterFaultIsUnreachable : Prop :=
  ∀ (s t : State) (row col : Nat), s.cfg.fits → step s = .next t → t.fault ≠ some (.rasterOutOfBounds row col)

/-- 10_state.md section 8, 60_exceptions.md section 3: who writes what: in a step of the scheduler the shift registers
change only in step 1, the phase only in step 3, the Input Register only in step 5, the raster and the image shown only in
step 4, the memory only in steps 1 and 2, the vectors only in step 2; the run ends only in step 6; the quit latch is never
cleared and the configuration never changes. -/
def Obligations.WhoWritesWhat : Prop :=
  ∀ s t : State, s.txn = none → step s = .next t →
    t.cfg = s.cfg ∧ (s.quit = true → t.quit = true) ∧
    (s.sched.sstep ≠ .one →
      t.io.low = s.io.low ∧ t.io.high = s.io.high ∧ t.io.offset = s.io.offset ∧ t.sched.cyc = s.sched.cyc ∧
      t.cpu.received = s.cpu.received ∧ t.cpu.supplied = s.cpu.supplied) ∧
    (s.sched.sstep ≠ .two → t.cpu.vectors = s.cpu.vectors ∧ t.cpu.responses = s.cpu.responses) ∧
    (s.sched.sstep ≠ .three → t.sched.phase = s.sched.phase) ∧
    (s.sched.sstep ≠ .four → t.raster = s.raster ∧ t.presented = s.presented) ∧
    (s.sched.sstep ≠ .five → t.io.inreg = s.io.inreg) ∧
    (s.sched.sstep ≠ .six → t.ended = s.ended) ∧
    (s.sched.sstep ≠ .one → s.sched.sstep ≠ .two → t.mem = s.mem)

/-- 20_memory.md section 5, 43_scheduler.md section 3: at a step boundary the host's batch appends its key events to the
queue in order and may set `quit`, and does nothing else; inside a slice the host does nothing. -/
def Obligations.HostActsOnlyBetweenSteps : Prop :=
  (∀ s : State, s.sched.inSlice = true → hostTurn s = s) ∧
  (∀ (s : State) (batch : List HostAct) (rest : List (List HostAct)), s.sched.inSlice = false →
    s.host = batch :: rest →
    hostTurn s = { s with
      host := rest
      quit := s.quit || batch.contains .quit
      events := s.events ++ batch.filterMap fun x => match x with
        | .key k id => some ⟨k, id⟩
        | .quit => none })

/-- 10_state.md section 6 and 70_reset_and_hazards.md section 1: the reset state of a configuration: the coin bit set and no
other, the scheduler at step 1 in `PHASE_RESET`, no fault, no quit, nothing queued and nothing shown. The zero shift
registers of the default are the spec's decision, the empty raster and memory the model's (log entries 10, 11). -/
def Obligations.ResetState : Prop :=
  (∀ c : Config,
    (State.resetWith c).io.inreg = 1#16 <<< c.bit .coin ∧ (State.resetWith c).io.low = c.lowReset ∧
    (State.resetWith c).io.high = c.highReset ∧ (State.resetWith c).io.offset = c.offsetReset ∧
    (State.resetWith c).sched.phase = c.phaseReset ∧ (State.resetWith c).sched.cyc = 0 ∧
    (State.resetWith c).sched.sstep = .one ∧ (State.resetWith c).fault = none ∧ (State.resetWith c).quit = false ∧
    (State.resetWith c).events = [] ∧ (State.resetWith c).presented = none ∧ (State.resetWith c).cfg = c) ∧
  State.reset = State.resetWith Config.default ∧ State.reset.io = ⟨0#8, 0#8, 0#3, 0x0001#16⟩ ∧
  State.reset.sched.phase = .mid

/-- 70_reset_and_hazards.md section 2: boot fails with code 4 without an image and, with one, with code 5 without a
surface, and then no step is performed; otherwise the state is reset with the image in memory byte for byte from address
0, standing at step 1. -/
def Obligations.BootLoadsTheImageOrFails : Prop :=
  ∀ c : Config,
    (∀ ok, ∃ s, boot c none ok = .next s ∧ s.fault = some .imageLoadFailure ∧
      step s = .fault (.faulted .imageLoadFailure)) ∧
    (∀ image : List Byte, image.length ≤ c.vramBase.val →
      (∃ s, boot c (some image) false = .next s ∧ s.fault = some .surfaceInitFailure ∧
        step s = .fault (.faulted .surfaceInitFailure)) ∧
      (∃ s, boot c (some image) true = .next s ∧ s = { State.resetWith c with mem := s.mem } ∧
        Memory.wf addrSpace s.mem ∧ ∀ i, i < image.length → s.mem.read i = image.getD i 0#8)) ∧
    (∀ image ok, c.vramBase.val < image.length → boot c (some image) ok = .refused .imageTooLong)

/-- 10_state.md section 3 and 42_video_decode.md section 3: the invariant holds at reset, for every configuration that meets
its constraints, the default one among them. -/
def Obligations.InvariantHoldsAtReset : Prop :=
  (∀ c : Config, c.wf → (State.resetWith c).Inv) ∧ State.reset.Inv

/-- 10_state.md section 3, 42_video_decode.md section 3, 43_scheduler.md section 2: every step keeps the invariant: the
memory and the raster stay in canonical form and inside their spaces, every lit element is 255, the unassigned bits of the
Input Register stay zero, a slice in progress stands at step 1 under its budget, and the configuration stays legal. -/
def Obligations.EveryStepKeepsTheInvariant : Prop :=
  ∀ s t : State, s.Inv → step s = .next t → t.Inv

/-- 10_state.md section 3: with the default switch table, bits 3, 7, 8, 9, 10, 11 and 15 of the Input Register read 0 in
every state the invariant holds of. -/
def Obligations.UnassignedBitsReadZero : Prop :=
  ∀ s : State, s.Inv → s.cfg.swbit = Config.default.swbit →
    s.io.inreg &&& 0x8F88#16 = 0#16 ∧ s.io.inputLow &&& 0x88#8 = 0#8 ∧ s.io.inputHigh &&& 0x8F#8 = 0#8
end

