-- ==== Sys2Proof/Laws/Config.lean ====
section
/-! SUPPORT. The fixed rows of the configuration hold the table's values, and its widths are those of the types. -/

namespace Sys2Proof

@[simp] theorem Fixed.val_eq {α : Type} {v : α} (x : Fixed v) : x.val = v := x.eq

@[simp] theorem Fixed.row_val {α : Type} (v : α) : (Fixed.row v).val = v := rfl

@[simp] theorem Config.fbSize_eq (c : Config) : c.fbSize = 7168 := by simp [Config.fbSize]

/-- The width rows of 00_scope.md R7 are the widths of the types the rules compute with, and there are `N_ACTIONS`
actions. -/
theorem Config.widths_of_types (c : Config) :
    Byte = BitVec c.dataW.val ∧ Port = BitVec c.portW.val ∧ InWord = BitVec c.inregW.val ∧
      Addr = BitVec c.addrW.val ∧ 2 ^ c.addrW.val = addrSpace ∧ c.fbSize = 7168 ∧
      Action.all.length = c.nActions.val ∧ c.offsetReset.toNat < 2 ^ c.offsetW.val := by
  simp [Action.all, c.offsetReset.isLt]

end Sys2Proof
end

