-- ==== Sys2Proof/Laws/Memory.lean ====
section
/-! SUPPORT. The laws of the byte store: read after write, the canonical form kept, and equal reads of canonical stores
meaning equal stores. -/

namespace Sys2Proof.Machine

@[simp] theorem Memory.read_nil (a : Nat) : Memory.read [] a = Memory.fill := rfl

theorem Memory.read_eq_fill_of_lt (m : Memory) (a : Nat) (h : ∀ c ∈ m, a < c.1) : m.read a = Memory.fill := by
  induction m with
  | nil => rfl
  | cons c rest ih =>
    obtain ⟨k, b⟩ := c
    have hk : a < k := h (k, b) (by simp)
    rw [Memory.read, if_neg (by omega)]
    exact ih fun c hc => h c (by simp [hc])

/-- A read after a write: the byte written at its place, the old byte everywhere else. -/
theorem Memory.read_write (m : Memory) (hm : m.Pairwise (fun x y => x.1 < y.1)) (a x : Nat) (v : Byte) :
    (m.write a v).read x = if x = a then v else m.read x := by
  induction m with
  | nil => by_cases hv : v = Memory.fill <;> by_cases hx : x = a <;> simp_all [Memory.write, Memory.read, eq_comm]
  | cons c rest ih =>
    obtain ⟨k, b⟩ := c
    obtain ⟨hk, hrest⟩ := List.pairwise_cons.mp hm
    have low : a ≤ k → Memory.read rest a = Memory.fill := fun ha =>
      Memory.read_eq_fill_of_lt rest a fun c hc => Nat.lt_of_le_of_lt ha (hk c hc)
    have ih := ih hrest
    by_cases h1 : a < k
    · have hl := low (by omega)
      have hka : k ≠ a := by omega
      by_cases hv : v = Memory.fill
      · by_cases hx : x = a
        · subst hx; simp [Memory.write, Memory.read, h1, hv, hka, hl]
        · simp [Memory.write, h1, hv, hx]
      · by_cases hx : x = a
        · subst hx; simp [Memory.write, Memory.read, h1, hv]
        · simp [Memory.write, Memory.read, h1, hv, hx, Ne.symm hx]
    · by_cases h2 : a = k
      · subst h2
        have hl := low (by omega)
        by_cases hv : v = Memory.fill <;> by_cases hx : x = a
        · subst hx; simp [Memory.write, hv, hl]
        · simp [Memory.write, Memory.read, hv, hx, Ne.symm hx]
        · subst hx; simp [Memory.write, Memory.read, hv]
        · simp [Memory.write, Memory.read, hv, hx, Ne.symm hx]
      · rw [Memory.write, if_neg h1, if_neg h2, Memory.read, Memory.read, ih]
        by_cases hx : x = a
        · subst hx; simp [Ne.symm h2]
        · simp [hx]

/-- Whatever a write leaves listed was listed before, or is the byte written. -/
theorem Memory.mem_write (m : Memory) (a : Nat) (v : Byte) (c : Host.Cell) (hc : c ∈ m.write a v) :
    c ∈ m ∨ (c = (a, v) ∧ v ≠ Memory.fill) := by
  induction m with
  | nil => by_cases hv : v = Memory.fill <;> simp_all [Memory.write]
  | cons d rest ih =>
    obtain ⟨k, b⟩ := d
    unfold Memory.write at hc
    split_ifs at hc <;> simp only [List.mem_cons] at hc ⊢ <;> tauto

/-- Every memory operation keeps the canonical form. -/
theorem Memory.write_wf (bound : Nat) (m : Memory) (hm : m.wf bound) (a : Nat) (ha : a < bound) (v : Byte) :
    (m.write a v).wf bound := by
  refine ⟨?_, fun c hc => ?_⟩
  · induction m with
    | nil => by_cases hv : v = Memory.fill <;> simp [Memory.write, hv]
    | cons d rest ih =>
      obtain ⟨k, b⟩ := d
      obtain ⟨hp, hb⟩ := hm
      obtain ⟨hk, hrest⟩ := List.pairwise_cons.mp hp
      unfold Memory.write
      split_ifs with h1 hv h2
      · exact hp
      · refine List.pairwise_cons.mpr ⟨fun c hc => ?_, hp⟩
        rcases List.mem_cons.mp hc with rfl | hc
        · exact h1
        · exact Nat.lt_trans h1 (hk c hc)
      · exact hrest
      · subst h2; exact List.pairwise_cons.mpr ⟨hk, hrest⟩
      · refine List.pairwise_cons.mpr ⟨fun c hc => ?_, ih ⟨hrest, fun c hc => hb c (by simp [hc])⟩⟩
        rcases Memory.mem_write rest a v c hc with hc | ⟨rfl, -⟩
        · exact hk c hc
        · show k < a
          omega
  · rcases Memory.mem_write m a v c hc with hc | ⟨rfl, hv⟩
    · exact hm.2 c hc
    · exact ⟨ha, hv⟩

theorem Memory.writeAll_wf (l : List (Addr × Byte)) (m : Memory) (hm : m.wf addrSpace) :
    (m.writeAll l).wf addrSpace := by
  induction l generalizing m with
  | nil => exact hm
  | cons x rest ih => exact ih _ (Memory.write_wf _ m hm _ x.1.isLt _)

theorem loadImage_wf (l : List Byte) (m : Memory) (i : Nat) (hm : m.wf addrSpace) (hl : i + l.length ≤ addrSpace) :
    (loadImage m i l).wf addrSpace := by
  induction l generalizing m i with
  | nil => exact hm
  | cons b rest ih =>
    simp only [List.length_cons] at hl
    exact ih _ _ (Memory.write_wf _ m hm _ (by omega) _) (by omega)

/-- Loading an image writes byte `j` of it at `i + j` and nothing else. -/
theorem loadImage_read (l : List Byte) (m : Memory) (i x : Nat) (hm : m.wf addrSpace)
    (hl : i + l.length ≤ addrSpace) :
    (loadImage m i l).read x = if i ≤ x ∧ x < i + l.length then l.getD (x - i) 0 else m.read x := by
  induction l generalizing m i with
  | nil => simp [loadImage, show ¬(i ≤ x ∧ x < i) by omega]
  | cons b rest ih =>
    simp only [List.length_cons] at hl
    rw [loadImage, ih _ _ (Memory.write_wf _ m hm _ (by omega) _) (by omega), Memory.read_write m hm.1]
    by_cases hx : x = i
    · subst hx; simp
    · by_cases hr : i + 1 ≤ x ∧ x < i + 1 + rest.length
      · have hs : x - i = (x - (i + 1)) + 1 := by omega
        simp [hr, hs, show i ≤ x ∧ x < i + (rest.length + 1) by omega]
      · rw [if_neg hr, if_neg hx, if_neg (by simp only [List.length_cons]; omega)]

/-- Canonical stores that read alike are the same list: equal memories are equal data. -/
theorem Memory.ext_of_wf (bound : Nat) (m n : Memory) (hm : m.wf bound) (hn : n.wf bound)
    (h : ∀ a, m.read a = n.read a) : m = n := by
  induction m generalizing n with
  | nil =>
    cases n with
    | nil => rfl
    | cons d rest =>
      have := h d.1
      simp [Memory.read] at this
      exact absurd this.symm (hn.2 d (by simp)).2
  | cons c rest ih =>
    obtain ⟨k, b⟩ := c
    obtain ⟨hk, hrest⟩ := List.pairwise_cons.mp hm.1
    cases n with
    | nil =>
      have := h k
      simp [Memory.read] at this
      exact absurd this (hm.2 (k, b) (by simp)).2
    | cons d rest' =>
      obtain ⟨k', b'⟩ := d
      obtain ⟨hk', hrest'⟩ := List.pairwise_cons.mp hn.1
      have hkk : k = k' := by
        rcases Nat.lt_trichotomy k k' with hlt | heq | hgt
        · have h1 := h k
          rw [Memory.read, if_pos rfl, Memory.read, if_neg (by omega),
            Memory.read_eq_fill_of_lt rest' k fun c hc => Nat.lt_trans hlt (hk' c hc)] at h1
          exact absurd h1 (hm.2 (k, b) (by simp)).2
        · exact heq
        · have h1 := h k'
          rw [Memory.read, if_neg (by omega), Memory.read, if_pos rfl,
            Memory.read_eq_fill_of_lt rest k' fun c hc => Nat.lt_trans hgt (hk c hc)] at h1
          exact absurd h1.symm (hn.2 (k', b') (by simp)).2
      subst hkk
      have hbb : b = b' := by have := h k; simpa [Memory.read] using this
      subst hbb
      rw [ih rest' ⟨hrest, fun c hc => hm.2 c (by simp [hc])⟩ ⟨hrest', fun c hc => hn.2 c (by simp [hc])⟩]
      intro a
      by_cases ha : k = a
      · subst ha
        rw [Memory.read_eq_fill_of_lt rest k hk, Memory.read_eq_fill_of_lt rest' k hk']
      · have := h a
        simpa [Memory.read, ha] using this

end Sys2Proof.Machine
end

