-- ==== Sys2Proof/Laws/State.lean ====
section
/-! SUPPORT. One lemma per field per update of the state, each true by definition: no later proof unfolds a record
update. -/

namespace Sys2Proof.Machine

variable (s : State)

@[simp] theorem State.setIo_cfg (x : Controller) : (s.setIo x).cfg = s.cfg := rfl
@[simp] theorem State.setIo_io (x : Controller) : (s.setIo x).io = x := rfl
@[simp] theorem State.setIo_sched (x : Controller) : (s.setIo x).sched = s.sched := rfl
@[simp] theorem State.setIo_fault (x : Controller) : (s.setIo x).fault = s.fault := rfl
@[simp] theorem State.setIo_quit (x : Controller) : (s.setIo x).quit = s.quit := rfl
@[simp] theorem State.setIo_events (x : Controller) : (s.setIo x).events = s.events := rfl
@[simp] theorem State.setIo_raster (x : Controller) : (s.setIo x).raster = s.raster := rfl
@[simp] theorem State.setIo_presented (x : Controller) : (s.setIo x).presented = s.presented := rfl
@[simp] theorem State.setIo_mem (x : Controller) : (s.setIo x).mem = s.mem := rfl
@[simp] theorem State.setIo_cpu (x : Controller) : (s.setIo x).cpu = s.cpu := rfl
@[simp] theorem State.setIo_host (x : Controller) : (s.setIo x).host = s.host := rfl
@[simp] theorem State.setIo_txn (x : Controller) : (s.setIo x).txn = s.txn := rfl
@[simp] theorem State.setIo_ended (x : Controller) : (s.setIo x).ended = s.ended := rfl

@[simp] theorem State.setSched_cfg (x : Scheduler) : (s.setSched x).cfg = s.cfg := rfl
@[simp] theorem State.setSched_io (x : Scheduler) : (s.setSched x).io = s.io := rfl
@[simp] theorem State.setSched_sched (x : Scheduler) : (s.setSched x).sched = x := rfl
@[simp] theorem State.setSched_fault (x : Scheduler) : (s.setSched x).fault = s.fault := rfl
@[simp] theorem State.setSched_quit (x : Scheduler) : (s.setSched x).quit = s.quit := rfl
@[simp] theorem State.setSched_events (x : Scheduler) : (s.setSched x).events = s.events := rfl
@[simp] theorem State.setSched_raster (x : Scheduler) : (s.setSched x).raster = s.raster := rfl
@[simp] theorem State.setSched_presented (x : Scheduler) : (s.setSched x).presented = s.presented := rfl
@[simp] theorem State.setSched_mem (x : Scheduler) : (s.setSched x).mem = s.mem := rfl
@[simp] theorem State.setSched_cpu (x : Scheduler) : (s.setSched x).cpu = s.cpu := rfl
@[simp] theorem State.setSched_host (x : Scheduler) : (s.setSched x).host = s.host := rfl
@[simp] theorem State.setSched_txn (x : Scheduler) : (s.setSched x).txn = s.txn := rfl
@[simp] theorem State.setSched_ended (x : Scheduler) : (s.setSched x).ended = s.ended := rfl

@[simp] theorem State.setEvents_cfg (x : List Event) : (s.setEvents x).cfg = s.cfg := rfl
@[simp] theorem State.setEvents_io (x : List Event) : (s.setEvents x).io = s.io := rfl
@[simp] theorem State.setEvents_sched (x : List Event) : (s.setEvents x).sched = s.sched := rfl
@[simp] theorem State.setEvents_fault (x : List Event) : (s.setEvents x).fault = s.fault := rfl
@[simp] theorem State.setEvents_quit (x : List Event) : (s.setEvents x).quit = s.quit := rfl
@[simp] theorem State.setEvents_events (x : List Event) : (s.setEvents x).events = x := rfl
@[simp] theorem State.setEvents_raster (x : List Event) : (s.setEvents x).raster = s.raster := rfl
@[simp] theorem State.setEvents_presented (x : List Event) : (s.setEvents x).presented = s.presented := rfl
@[simp] theorem State.setEvents_mem (x : List Event) : (s.setEvents x).mem = s.mem := rfl
@[simp] theorem State.setEvents_cpu (x : List Event) : (s.setEvents x).cpu = s.cpu := rfl
@[simp] theorem State.setEvents_host (x : List Event) : (s.setEvents x).host = s.host := rfl
@[simp] theorem State.setEvents_txn (x : List Event) : (s.setEvents x).txn = s.txn := rfl
@[simp] theorem State.setEvents_ended (x : List Event) : (s.setEvents x).ended = s.ended := rfl

@[simp] theorem State.setRaster_cfg (x : Memory) : (s.setRaster x).cfg = s.cfg := rfl
@[simp] theorem State.setRaster_io (x : Memory) : (s.setRaster x).io = s.io := rfl
@[simp] theorem State.setRaster_sched (x : Memory) : (s.setRaster x).sched = s.sched := rfl
@[simp] theorem State.setRaster_fault (x : Memory) : (s.setRaster x).fault = s.fault := rfl
@[simp] theorem State.setRaster_quit (x : Memory) : (s.setRaster x).quit = s.quit := rfl
@[simp] theorem State.setRaster_events (x : Memory) : (s.setRaster x).events = s.events := rfl
@[simp] theorem State.setRaster_raster (x : Memory) : (s.setRaster x).raster = x := rfl
@[simp] theorem State.setRaster_presented (x : Memory) : (s.setRaster x).presented = s.presented := rfl
@[simp] theorem State.setRaster_mem (x : Memory) : (s.setRaster x).mem = s.mem := rfl
@[simp] theorem State.setRaster_cpu (x : Memory) : (s.setRaster x).cpu = s.cpu := rfl
@[simp] theorem State.setRaster_host (x : Memory) : (s.setRaster x).host = s.host := rfl
@[simp] theorem State.setRaster_txn (x : Memory) : (s.setRaster x).txn = s.txn := rfl
@[simp] theorem State.setRaster_ended (x : Memory) : (s.setRaster x).ended = s.ended := rfl

@[simp] theorem State.setPresented_cfg (x : Option Memory) : (s.setPresented x).cfg = s.cfg := rfl
@[simp] theorem State.setPresented_io (x : Option Memory) : (s.setPresented x).io = s.io := rfl
@[simp] theorem State.setPresented_sched (x : Option Memory) : (s.setPresented x).sched = s.sched := rfl
@[simp] theorem State.setPresented_fault (x : Option Memory) : (s.setPresented x).fault = s.fault := rfl
@[simp] theorem State.setPresented_quit (x : Option Memory) : (s.setPresented x).quit = s.quit := rfl
@[simp] theorem State.setPresented_events (x : Option Memory) : (s.setPresented x).events = s.events := rfl
@[simp] theorem State.setPresented_raster (x : Option Memory) : (s.setPresented x).raster = s.raster := rfl
@[simp] theorem State.setPresented_presented (x : Option Memory) : (s.setPresented x).presented = x := rfl
@[simp] theorem State.setPresented_mem (x : Option Memory) : (s.setPresented x).mem = s.mem := rfl
@[simp] theorem State.setPresented_cpu (x : Option Memory) : (s.setPresented x).cpu = s.cpu := rfl
@[simp] theorem State.setPresented_host (x : Option Memory) : (s.setPresented x).host = s.host := rfl
@[simp] theorem State.setPresented_txn (x : Option Memory) : (s.setPresented x).txn = s.txn := rfl
@[simp] theorem State.setPresented_ended (x : Option Memory) : (s.setPresented x).ended = s.ended := rfl

@[simp] theorem State.setMem_cfg (x : Memory) : (s.setMem x).cfg = s.cfg := rfl
@[simp] theorem State.setMem_io (x : Memory) : (s.setMem x).io = s.io := rfl
@[simp] theorem State.setMem_sched (x : Memory) : (s.setMem x).sched = s.sched := rfl
@[simp] theorem State.setMem_fault (x : Memory) : (s.setMem x).fault = s.fault := rfl
@[simp] theorem State.setMem_quit (x : Memory) : (s.setMem x).quit = s.quit := rfl
@[simp] theorem State.setMem_events (x : Memory) : (s.setMem x).events = s.events := rfl
@[simp] theorem State.setMem_raster (x : Memory) : (s.setMem x).raster = s.raster := rfl
@[simp] theorem State.setMem_presented (x : Memory) : (s.setMem x).presented = s.presented := rfl
@[simp] theorem State.setMem_mem (x : Memory) : (s.setMem x).mem = x := rfl
@[simp] theorem State.setMem_cpu (x : Memory) : (s.setMem x).cpu = s.cpu := rfl
@[simp] theorem State.setMem_host (x : Memory) : (s.setMem x).host = s.host := rfl
@[simp] theorem State.setMem_txn (x : Memory) : (s.setMem x).txn = s.txn := rfl
@[simp] theorem State.setMem_ended (x : Memory) : (s.setMem x).ended = s.ended := rfl

@[simp] theorem State.setCpu_cfg (x : CpuSide) : (s.setCpu x).cfg = s.cfg := rfl
@[simp] theorem State.setCpu_io (x : CpuSide) : (s.setCpu x).io = s.io := rfl
@[simp] theorem State.setCpu_sched (x : CpuSide) : (s.setCpu x).sched = s.sched := rfl
@[simp] theorem State.setCpu_fault (x : CpuSide) : (s.setCpu x).fault = s.fault := rfl
@[simp] theorem State.setCpu_quit (x : CpuSide) : (s.setCpu x).quit = s.quit := rfl
@[simp] theorem State.setCpu_events (x : CpuSide) : (s.setCpu x).events = s.events := rfl
@[simp] theorem State.setCpu_raster (x : CpuSide) : (s.setCpu x).raster = s.raster := rfl
@[simp] theorem State.setCpu_presented (x : CpuSide) : (s.setCpu x).presented = s.presented := rfl
@[simp] theorem State.setCpu_mem (x : CpuSide) : (s.setCpu x).mem = s.mem := rfl
@[simp] theorem State.setCpu_cpu (x : CpuSide) : (s.setCpu x).cpu = x := rfl
@[simp] theorem State.setCpu_host (x : CpuSide) : (s.setCpu x).host = s.host := rfl
@[simp] theorem State.setCpu_txn (x : CpuSide) : (s.setCpu x).txn = s.txn := rfl
@[simp] theorem State.setCpu_ended (x : CpuSide) : (s.setCpu x).ended = s.ended := rfl

@[simp] theorem State.setHost_cfg (x : List (List HostAct)) : (s.setHost x).cfg = s.cfg := rfl
@[simp] theorem State.setHost_io (x : List (List HostAct)) : (s.setHost x).io = s.io := rfl
@[simp] theorem State.setHost_sched (x : List (List HostAct)) : (s.setHost x).sched = s.sched := rfl
@[simp] theorem State.setHost_fault (x : List (List HostAct)) : (s.setHost x).fault = s.fault := rfl
@[simp] theorem State.setHost_quit (x : List (List HostAct)) : (s.setHost x).quit = s.quit := rfl
@[simp] theorem State.setHost_events (x : List (List HostAct)) : (s.setHost x).events = s.events := rfl
@[simp] theorem State.setHost_raster (x : List (List HostAct)) : (s.setHost x).raster = s.raster := rfl
@[simp] theorem State.setHost_presented (x : List (List HostAct)) : (s.setHost x).presented = s.presented := rfl
@[simp] theorem State.setHost_mem (x : List (List HostAct)) : (s.setHost x).mem = s.mem := rfl
@[simp] theorem State.setHost_cpu (x : List (List HostAct)) : (s.setHost x).cpu = s.cpu := rfl
@[simp] theorem State.setHost_host (x : List (List HostAct)) : (s.setHost x).host = x := rfl
@[simp] theorem State.setHost_txn (x : List (List HostAct)) : (s.setHost x).txn = s.txn := rfl
@[simp] theorem State.setHost_ended (x : List (List HostAct)) : (s.setHost x).ended = s.ended := rfl

@[simp] theorem State.setTxn_cfg (x : Option Txn) : (s.setTxn x).cfg = s.cfg := rfl
@[simp] theorem State.setTxn_io (x : Option Txn) : (s.setTxn x).io = s.io := rfl
@[simp] theorem State.setTxn_sched (x : Option Txn) : (s.setTxn x).sched = s.sched := rfl
@[simp] theorem State.setTxn_fault (x : Option Txn) : (s.setTxn x).fault = s.fault := rfl
@[simp] theorem State.setTxn_quit (x : Option Txn) : (s.setTxn x).quit = s.quit := rfl
@[simp] theorem State.setTxn_events (x : Option Txn) : (s.setTxn x).events = s.events := rfl
@[simp] theorem State.setTxn_raster (x : Option Txn) : (s.setTxn x).raster = s.raster := rfl
@[simp] theorem State.setTxn_presented (x : Option Txn) : (s.setTxn x).presented = s.presented := rfl
@[simp] theorem State.setTxn_mem (x : Option Txn) : (s.setTxn x).mem = s.mem := rfl
@[simp] theorem State.setTxn_cpu (x : Option Txn) : (s.setTxn x).cpu = s.cpu := rfl
@[simp] theorem State.setTxn_host (x : Option Txn) : (s.setTxn x).host = s.host := rfl
@[simp] theorem State.setTxn_txn (x : Option Txn) : (s.setTxn x).txn = x := rfl
@[simp] theorem State.setTxn_ended (x : Option Txn) : (s.setTxn x).ended = s.ended := rfl

@[simp] theorem State.setQuit_cfg : s.setQuit.cfg = s.cfg := rfl
@[simp] theorem State.setQuit_io : s.setQuit.io = s.io := rfl
@[simp] theorem State.setQuit_sched : s.setQuit.sched = s.sched := rfl
@[simp] theorem State.setQuit_fault : s.setQuit.fault = s.fault := rfl
@[simp] theorem State.setQuit_quit : s.setQuit.quit = true := rfl
@[simp] theorem State.setQuit_events : s.setQuit.events = s.events := rfl
@[simp] theorem State.setQuit_raster : s.setQuit.raster = s.raster := rfl
@[simp] theorem State.setQuit_presented : s.setQuit.presented = s.presented := rfl
@[simp] theorem State.setQuit_mem : s.setQuit.mem = s.mem := rfl
@[simp] theorem State.setQuit_cpu : s.setQuit.cpu = s.cpu := rfl
@[simp] theorem State.setQuit_host : s.setQuit.host = s.host := rfl
@[simp] theorem State.setQuit_txn : s.setQuit.txn = s.txn := rfl
@[simp] theorem State.setQuit_ended : s.setQuit.ended = s.ended := rfl

@[simp] theorem State.finish_cfg : s.finish.cfg = s.cfg := rfl
@[simp] theorem State.finish_io : s.finish.io = s.io := rfl
@[simp] theorem State.finish_sched : s.finish.sched = s.sched := rfl
@[simp] theorem State.finish_fault : s.finish.fault = s.fault := rfl
@[simp] theorem State.finish_quit : s.finish.quit = s.quit := rfl
@[simp] theorem State.finish_events : s.finish.events = s.events := rfl
@[simp] theorem State.finish_raster : s.finish.raster = s.raster := rfl
@[simp] theorem State.finish_presented : s.finish.presented = s.presented := rfl
@[simp] theorem State.finish_mem : s.finish.mem = s.mem := rfl
@[simp] theorem State.finish_cpu : s.finish.cpu = s.cpu := rfl
@[simp] theorem State.finish_host : s.finish.host = s.host := rfl
@[simp] theorem State.finish_txn : s.finish.txn = s.txn := rfl
@[simp] theorem State.finish_ended : s.finish.ended = true := rfl

@[simp] theorem State.raise_cfg (r : FaultRecord) : (s.raise r).cfg = s.cfg := rfl
@[simp] theorem State.raise_io (r : FaultRecord) : (s.raise r).io = s.io := rfl
@[simp] theorem State.raise_sched (r : FaultRecord) : (s.raise r).sched = s.sched := rfl
@[simp] theorem State.raise_fault (r : FaultRecord) : (s.raise r).fault = some r := rfl
@[simp] theorem State.raise_quit (r : FaultRecord) : (s.raise r).quit = s.quit := rfl
@[simp] theorem State.raise_events (r : FaultRecord) : (s.raise r).events = s.events := rfl
@[simp] theorem State.raise_raster (r : FaultRecord) : (s.raise r).raster = s.raster := rfl
@[simp] theorem State.raise_presented (r : FaultRecord) : (s.raise r).presented = s.presented := rfl
@[simp] theorem State.raise_mem (r : FaultRecord) : (s.raise r).mem = s.mem := rfl
@[simp] theorem State.raise_cpu (r : FaultRecord) : (s.raise r).cpu = s.cpu := rfl
@[simp] theorem State.raise_host (r : FaultRecord) : (s.raise r).host = s.host := rfl
@[simp] theorem State.raise_txn (r : FaultRecord) : (s.raise r).txn = s.txn := rfl
@[simp] theorem State.raise_ended (r : FaultRecord) : (s.raise r).ended = s.ended := rfl

@[simp] theorem State.goto_cfg (st : SStep) : (s.goto st).cfg = s.cfg := rfl
@[simp] theorem State.goto_io (st : SStep) : (s.goto st).io = s.io := rfl
@[simp] theorem State.goto_sched (st : SStep) : (s.goto st).sched = { s.sched with sstep := st } := rfl
@[simp] theorem State.goto_fault (st : SStep) : (s.goto st).fault = s.fault := rfl
@[simp] theorem State.goto_quit (st : SStep) : (s.goto st).quit = s.quit := rfl
@[simp] theorem State.goto_events (st : SStep) : (s.goto st).events = s.events := rfl
@[simp] theorem State.goto_raster (st : SStep) : (s.goto st).raster = s.raster := rfl
@[simp] theorem State.goto_presented (st : SStep) : (s.goto st).presented = s.presented := rfl
@[simp] theorem State.goto_mem (st : SStep) : (s.goto st).mem = s.mem := rfl
@[simp] theorem State.goto_cpu (st : SStep) : (s.goto st).cpu = s.cpu := rfl
@[simp] theorem State.goto_host (st : SStep) : (s.goto st).host = s.host := rfl
@[simp] theorem State.goto_txn (st : SStep) : (s.goto st).txn = s.txn := rfl
@[simp] theorem State.goto_ended (st : SStep) : (s.goto st).ended = s.ended := rfl

@[simp] theorem State.receive_cfg (b : Byte) : (s.receive b).cfg = s.cfg := rfl
@[simp] theorem State.receive_io (b : Byte) : (s.receive b).io = s.io := rfl
@[simp] theorem State.receive_sched (b : Byte) : (s.receive b).sched = s.sched := rfl
@[simp] theorem State.receive_fault (b : Byte) : (s.receive b).fault = s.fault := rfl
@[simp] theorem State.receive_quit (b : Byte) : (s.receive b).quit = s.quit := rfl
@[simp] theorem State.receive_events (b : Byte) : (s.receive b).events = s.events := rfl
@[simp] theorem State.receive_raster (b : Byte) : (s.receive b).raster = s.raster := rfl
@[simp] theorem State.receive_presented (b : Byte) : (s.receive b).presented = s.presented := rfl
@[simp] theorem State.receive_mem (b : Byte) : (s.receive b).mem = s.mem := rfl
@[simp] theorem State.receive_cpu (b : Byte) : (s.receive b).cpu = { s.cpu with received := b :: s.cpu.received } := rfl
@[simp] theorem State.receive_host (b : Byte) : (s.receive b).host = s.host := rfl
@[simp] theorem State.receive_txn (b : Byte) : (s.receive b).txn = s.txn := rfl
@[simp] theorem State.receive_ended (b : Byte) : (s.receive b).ended = s.ended := rfl

end Sys2Proof.Machine
end

