-- ==== Sys2Proof/Laws/Ops.lean ====
section
/-! SUPPORT. What each shared operation can do, said once: performing an operation, sweeping a loop, the ports, the keys
and the executor. -/

namespace Sys2Proof.Machine

theorem State.running_iff (s : State) : s.running = true ↔ s.fault = none ∧ s.ended = false := by
  simp [State.running, Option.isNone_iff_eq_none]

/-- A run that is still going performs the operation. -/
@[simp] theorem perform_running (op : State → State) (s : State) (h : s.running = true) : perform op s = .next (op s) := by
  obtain ⟨hf, he⟩ := (State.running_iff s).mp h
  simp [perform, hf, he]

/-- A meaning goes on only from a run that is still going, and then its operation is what happened. -/
theorem perform_eq_next (op : State → State) (s t : State) (h : perform op s = .next t) :
    s.running = true ∧ t = op s := by
  unfold perform at h
  split at h
  · cases h
  · rename_i hf
    split at h
    · cases h
    · rename_i he
      refine ⟨(State.running_iff s).mpr ⟨hf, by simpa using he⟩, ?_⟩
      injection h with h
      exact h.symm

theorem perform_faulted (op : State → State) (s : State) (r : FaultRecord) (h : s.fault = some r) :
    perform op s = .fault (.faulted r) := by
  simp [perform, h]

theorem perform_ended (op : State → State) (s : State) (hf : s.fault = none) (he : s.ended = true) :
    perform op s = .refused .runOver := by
  simp [perform, hf, he]

@[simp] theorem sweep_zero (f : Nat → State → State) (s : State) : sweep 0 f s = s := rfl

/-- The loop one turn longer: its last turn is performed unless a fault stopped it. -/
theorem sweep_succ (n : Nat) (f : Nat → State → State) (s : State) :
    sweep (n + 1) f s = if (sweep n f s).fault.isNone then f n (sweep n f s) else sweep n f s := by
  simp [sweep, List.range_succ]

/-- A property every turn keeps holds after the loop. -/
theorem sweep_keeps (P : State → Prop) (n : Nat) (f : Nat → State → State)
    (hf : ∀ k t, k < n → t.fault = none → P t → P (f k t)) (s : State) (hs : P s) : P (sweep n f s) := by
  induction n with
  | zero => exact hs
  | succ n ih =>
    rw [sweep_succ]
    have := ih fun k t hk => hf k t (by omega)
    split_ifs with h
    · exact hf n _ (by omega) (by simpa using h) this
    · exact this

/-- A port read hands the CPU a byte, or raises the fault of that port. -/
theorem portRead_cases (p : Port) (s : State) :
    (readable p = true ∧ ∃ b, portRead p s = s.receive b) ∨
      (readable p = false ∧ portRead p s = s.raise (.unknownPortRead p)) := by
  unfold portRead readable
  split_ifs with h1 h2 h3
  · exact .inl ⟨by simp [h1], _, rfl⟩
  · exact .inl ⟨by simp [h2], _, rfl⟩
  · exact .inl ⟨by simp [h3], _, rfl⟩
  · exact .inr ⟨by simp [h1, h2, h3], rfl⟩

/-- A port write changes only the shift registers, or raises the fault of that port. -/
theorem portWrite_cases (p : Port) (v : Byte) (s : State) :
    (writable p = true ∧ ∃ c, c.inreg = s.io.inreg ∧ portWrite p v s = s.setIo c) ∨
      (writable p = false ∧ portWrite p v s = s.raise (.unknownPortWrite p)) := by
  unfold portWrite writable
  split_ifs with h2 h3 h4 h5 h6
  · exact .inl ⟨by simp [h2], { s.io with offset := maskOffset v }, rfl, rfl⟩
  · exact .inl ⟨by simp [h3], s.io, rfl, rfl⟩
  · exact .inl ⟨by simp [h4], { s.io with low := s.io.high, high := v }, rfl, rfl⟩
  · exact .inl ⟨by simp [h5], s.io, rfl, rfl⟩
  · exact .inl ⟨by simp [h6], s.io, rfl, rfl⟩
  · exact .inr ⟨by simp [h2, h3, h4, h5, h6], rfl⟩

/-- What the CPU can reach while it executes: not the phase, the step, the queue, the raster, nor the Input Register
(60_exceptions.md R225). -/
structure CpuFrame (s t : State) : Prop where
  cfg : t.cfg = s.cfg
  inreg : t.io.inreg = s.io.inreg
  sched : t.sched = s.sched
  quit : t.quit = s.quit
  events : t.events = s.events
  raster : t.raster = s.raster
  presented : t.presented = s.presented
  host : t.host = s.host
  txn : t.txn = s.txn
  ended : t.ended = s.ended
  supplied : t.cpu.supplied = s.cpu.supplied
  responses : t.cpu.responses = s.cpu.responses
  draws : t.cpu.draws = s.cpu.draws
  vectors : t.cpu.vectors = s.cpu.vectors

theorem CpuFrame.refl (s : State) : CpuFrame s s := by constructor <;> rfl

theorem CpuFrame.trans {s t u : State} (h : CpuFrame s t) (g : CpuFrame t u) : CpuFrame s u where
  cfg := g.cfg.trans h.cfg
  inreg := g.inreg.trans h.inreg
  sched := g.sched.trans h.sched
  quit := g.quit.trans h.quit
  events := g.events.trans h.events
  raster := g.raster.trans h.raster
  presented := g.presented.trans h.presented
  host := g.host.trans h.host
  txn := g.txn.trans h.txn
  ended := g.ended.trans h.ended
  supplied := g.supplied.trans h.supplied
  responses := g.responses.trans h.responses
  draws := g.draws.trans h.draws
  vectors := g.vectors.trans h.vectors

theorem cpuAct_frame (a : CpuAct) (s : State) : CpuFrame s (cpuAct a s) := by
  cases a with
  | read p =>
    rcases portRead_cases p s with ⟨-, b, h⟩ | ⟨-, h⟩ <;> simp only [cpuAct, h] <;> constructor <;> rfl
  | write p v =>
    rcases portWrite_cases p v s with ⟨-, c, hc, h⟩ | ⟨-, h⟩ <;> simp only [cpuAct, h] <;> constructor <;>
      first | rfl | exact hc
  | store x b => constructor <;> rfl

/-- An access faults exactly where its port is not implemented. -/
theorem cpuAct_fault (a : CpuAct) (s : State) (hs : s.fault = none) : (cpuAct a s).fault = none ↔ a.ok = true := by
  cases a with
  | read p => rcases portRead_cases p s with ⟨hp, b, h⟩ | ⟨hp, h⟩ <;> simp [cpuAct, h, hs, CpuAct.ok, hp]
  | write p v => rcases portWrite_cases p v s with ⟨hp, c, -, h⟩ | ⟨hp, h⟩ <;> simp [cpuAct, h, hs, CpuAct.ok, hp]
  | store x b => simp [cpuAct, hs, CpuAct.ok]

/-- A fault of an access is one of the two port faults. -/
theorem cpuAct_fault_code (a : CpuAct) (s : State) (hs : s.fault = none) (r : FaultRecord)
    (h : (cpuAct a s).fault = some r) : r.code = 1 ∨ r.code = 2 := by
  cases a with
  | read p =>
    rcases portRead_cases p s with ⟨hp, b, e⟩ | ⟨hp, e⟩ <;> simp [cpuAct, e, hs] at h
    subst h; exact .inl rfl
  | write p v =>
    rcases portWrite_cases p v s with ⟨hp, c, -, e⟩ | ⟨hp, e⟩ <;> simp [cpuAct, e, hs] at h
    subst h; exact .inr rfl
  | store x b => simp [cpuAct, hs] at h

/-- A property every access keeps holds after the accesses of an instruction. -/
theorem cpuActs_keeps (P : State → Prop) (hP : ∀ a t, P t → P (cpuAct a t)) (l : List CpuAct) (s : State) (hs : P s) :
    P (cpuActs l s) := by
  induction l generalizing s with
  | nil => exact hs
  | cons a rest ih =>
    simp only [cpuActs]
    split_ifs
    · exact ih _ (hP a s hs)
    · exact hP a s hs

theorem cpuActs_frame (l : List CpuAct) (s : State) : CpuFrame s (cpuActs l s) :=
  cpuActs_keeps (CpuFrame s) (fun a t h => h.trans (cpuAct_frame a t)) l s (.refl s)

/-- An instruction faults exactly where one of its accesses does. -/
theorem cpuActs_fault (l : List CpuAct) (s : State) (hs : s.fault = none) :
    (cpuActs l s).fault = none ↔ l.all CpuAct.ok = true := by
  induction l generalizing s with
  | nil => simp [cpuActs, hs]
  | cons a rest ih =>
    have ha := cpuAct_fault a s hs
    rw [List.all_cons, Bool.and_eq_true, ← ha]
    simp only [cpuActs, Option.isNone_iff_eq_none]
    split_ifs with h
    · rw [ih _ h]; exact ⟨fun g => ⟨h, g⟩, fun g => g.2⟩
    · exact ⟨fun g => absurd g h, fun g => g.1⟩

/-- A frame but for the cycle count: what one `ExecuteOne()` leaves alone. -/
theorem executeInstr_cases (c : CpuInstr) (s : State) :
    ∃ t, CpuFrame s t ∧ ((t.fault = none ∧ executeInstr c s = t.setSched { s.sched with cyc := s.sched.cyc + c.cost }) ∨
      (t.fault ≠ none ∧ executeInstr c s = t)) := by
  refine ⟨cpuActs c.acts s, cpuActs_frame c.acts s, ?_⟩
  have hs := (cpuActs_frame c.acts s).sched
  simp only [executeInstr, Option.isNone_iff_eq_none]
  split_ifs with h
  · exact .inl ⟨h, by rw [hs]⟩
  · exact .inr ⟨h, rfl⟩

/-- A key operation writes the Input Register and nothing else. -/
theorem applyEvent_eq (s : State) (e : Event) :
    applyEvent s e = s.setIo { s.io with inreg := (applyEvent s e).io.inreg } := by
  unfold applyEvent
  split
  · rfl
  · split
    · unfold pressAction; split_ifs <;> rfl
    · unfold releaseAction; split_ifs <;> rfl

end Sys2Proof.Machine
end

