-- ==== Sys2Proof/Laws/PerInstr.lean ====
section
/-! SUPPORT. Per instruction: its word is of the format the opcode table gives its row (30_encoding.md R80: "Each operation
of the block belongs to exactly one" format). -/

namespace Sys2Proof.Laws

/-- The six formats (30_encoding.md R80). -/
inductive Format where
  | b
  | k
  | e
  | v
  | r
  | s
  deriving DecidableEq, Repr

/-- The format of a word: its interface. -/
def formatOf : Txn → Format
  | .bus _ => .b
  | .key _ => .k
  | .event _ => .e
  | .video _ => .v
  | .raster _ => .r
  | .sched _ => .s

/-- The column "format" of spec/opcode_table.json. -/
def tableFormat : Instr → Format
  | .in1 => .b
  | .in2 => .b
  | .in3 => .b
  | .out2 _ => .b
  | .out3 _ => .b
  | .out4 _ => .b
  | .out5 _ => .b
  | .out6 _ => .b
  | .inUnimpl _ => .b
  | .outUnimpl _ _ => .b
  | .keySet _ => .k
  | .keyClr _ => .k
  | .pressCoin => .e
  | .releaseCoin => .e
  | .pressP1Start => .e
  | .releaseP1Start => .e
  | .pressP2Start => .e
  | .releaseP2Start => .e
  | .pressP1Left => .e
  | .releaseP1Left => .e
  | .pressP1Right => .e
  | .releaseP1Right => .e
  | .pressP1Fire => .e
  | .releaseP1Fire => .e
  | .pressP2Left => .e
  | .releaseP2Left => .e
  | .pressP2Right => .e
  | .releaseP2Right => .e
  | .pressP2Fire => .e
  | .releaseP2Fire => .e
  | .eventNone _ _ => .e
  | .pixel _ _ _ => .v
  | .clear => .r
  | .decodePass => .r
  | .present => .r
  | .slice _ => .s
  | .intrMid => .s
  | .intrEnd => .s
  | .toggle _ => .s
  | .frame => .s
  | .frameSkip => .s
  | .drain _ => .s
  | .quitChk _ => .s

namespace EncodedFormat

/-- The operation's word is on the interface of its row. -/
def Statement (i : Instr) : Prop := formatOf (encode i) = tableFormat i

theorem in1 : Statement (.in1) := rfl
theorem in2 : Statement (.in2) := rfl
theorem in3 : Statement (.in3) := rfl
theorem out2 (x0 : Byte) : Statement (.out2 x0) := rfl
theorem out3 (x0 : Byte) : Statement (.out3 x0) := rfl
theorem out4 (x0 : Byte) : Statement (.out4 x0) := rfl
theorem out5 (x0 : Byte) : Statement (.out5 x0) := rfl
theorem out6 (x0 : Byte) : Statement (.out6 x0) := rfl
theorem inUnimpl (x0 : Port) : Statement (.inUnimpl x0) := rfl
theorem outUnimpl (x0 : Port) (x1 : Byte) : Statement (.outUnimpl x0 x1) := rfl
theorem keySet (x0 : Action) : Statement (.keySet x0) := rfl
theorem keyClr (x0 : Action) : Statement (.keyClr x0) := rfl
theorem pressCoin : Statement (.pressCoin) := rfl
theorem releaseCoin : Statement (.releaseCoin) := rfl
theorem pressP1Start : Statement (.pressP1Start) := rfl
theorem releaseP1Start : Statement (.releaseP1Start) := rfl
theorem pressP2Start : Statement (.pressP2Start) := rfl
theorem releaseP2Start : Statement (.releaseP2Start) := rfl
theorem pressP1Left : Statement (.pressP1Left) := rfl
theorem releaseP1Left : Statement (.releaseP1Left) := rfl
theorem pressP1Right : Statement (.pressP1Right) := rfl
theorem releaseP1Right : Statement (.releaseP1Right) := rfl
theorem pressP1Fire : Statement (.pressP1Fire) := rfl
theorem releaseP1Fire : Statement (.releaseP1Fire) := rfl
theorem pressP2Left : Statement (.pressP2Left) := rfl
theorem releaseP2Left : Statement (.releaseP2Left) := rfl
theorem pressP2Right : Statement (.pressP2Right) := rfl
theorem releaseP2Right : Statement (.releaseP2Right) := rfl
theorem pressP2Fire : Statement (.pressP2Fire) := rfl
theorem releaseP2Fire : Statement (.releaseP2Fire) := rfl
theorem eventNone (x0 : EventKind) (x1 : BitVec 4) : Statement (.eventNone x0 x1) := rfl
theorem pixel (x0 : BitVec 8) (x1 : BitVec 5) (x2 : BitVec 3) : Statement (.pixel x0 x1 x2) := rfl
theorem clear : Statement (.clear) := rfl
theorem decodePass : Statement (.decodePass) := rfl
theorem present : Statement (.present) := rfl
theorem slice (x0 : Phase) : Statement (.slice x0) := rfl
theorem intrMid : Statement (.intrMid) := rfl
theorem intrEnd : Statement (.intrEnd) := rfl
theorem toggle (x0 : Phase) : Statement (.toggle x0) := rfl
theorem frame : Statement (.frame) := rfl
theorem frameSkip : Statement (.frameSkip) := rfl
theorem drain (x0 : Phase) : Statement (.drain x0) := rfl
theorem quitChk (x0 : Phase) : Statement (.quitChk x0) := rfl

end EncodedFormat

end Sys2Proof.Laws
end

