-- ==== Sys2Proof/Laws/Slice.lean ====
section
/-! SUPPORT. What the parts of `SLICE` can do, each said once, and how a list of operations runs. -/

namespace Sys2Proof.Machine

/-- What a slice leaves alone, at any point inside it (43_scheduler.md R182). -/
structure SliceFrame (s t : State) : Prop where
  cfg : t.cfg = s.cfg
  inreg : t.io.inreg = s.io.inreg
  phase : t.sched.phase = s.sched.phase
  quit : t.quit = s.quit
  events : t.events = s.events
  raster : t.raster = s.raster
  presented : t.presented = s.presented
  host : t.host = s.host
  txn : t.txn = s.txn
  ended : t.ended = s.ended
  responses : t.cpu.responses = s.cpu.responses
  vectors : t.cpu.vectors = s.cpu.vectors

theorem SliceFrame.refl (s : State) : SliceFrame s s := by constructor <;> rfl

theorem SliceFrame.trans {s t u : State} (h : SliceFrame s t) (g : SliceFrame t u) : SliceFrame s u where
  cfg := g.cfg.trans h.cfg
  inreg := g.inreg.trans h.inreg
  phase := g.phase.trans h.phase
  quit := g.quit.trans h.quit
  events := g.events.trans h.events
  raster := g.raster.trans h.raster
  presented := g.presented.trans h.presented
  host := g.host.trans h.host
  txn := g.txn.trans h.txn
  ended := g.ended.trans h.ended
  responses := g.responses.trans h.responses
  vectors := g.vectors.trans h.vectors

/-- What the CPU cannot reach, a slice leaves alone. -/
theorem CpuFrame.slice {s t : State} (h : CpuFrame s t) : SliceFrame s t where
  cfg := h.cfg
  inreg := h.inreg
  phase := by rw [h.sched]
  quit := h.quit
  events := h.events
  raster := h.raster
  presented := h.presented
  host := h.host
  txn := h.txn
  ended := h.ended
  responses := h.responses
  vectors := h.vectors

/-- Taking instructions from the supplied ones, or drawing one, is inside the slice. -/
theorem sliceFrame_take (s : State) (l : List CpuInstr) (n : Nat) :
    SliceFrame s (s.setCpu { s.cpu with supplied := l, draws := n }) := by
  constructor <;> rfl

/-- One `ExecuteOne()` leaves alone what a slice does, and the scheduler's place with it; it adds its cost unless it
faults. -/
theorem executeInstr_slice (c : CpuInstr) (s : State) :
    SliceFrame s (executeInstr c s) ∧
      ((executeInstr c s).fault = none → (executeInstr c s).sched = { s.sched with cyc := s.sched.cyc + c.cost }) ∧
      ((executeInstr c s).fault ≠ none → (executeInstr c s).sched = s.sched) := by
  obtain ⟨t, ht, ⟨hf, e⟩ | ⟨hf, e⟩⟩ := executeInstr_cases c s <;> rw [e]
  · refine ⟨ht.slice.trans ?_, fun _ => rfl, fun h => absurd hf h⟩
    constructor <;> first | rfl | simp [ht.sched]
  · exact ⟨ht.slice, fun h => absurd h hf, fun _ => ht.sched⟩

/-- The end of the loop: step 2 where the budget is met, nothing where it is not. -/
theorem sliceEnd_cases (s : State) :
    (s.cfg.budget ≤ s.sched.cyc ∧ sliceEnd s = s.setSched { s.sched with sstep := .two, inSlice := false }) ∨
      (s.sched.cyc < s.cfg.budget ∧ sliceEnd s = s) := by
  unfold sliceEnd
  split_ifs with h
  · exact .inl ⟨h, rfl⟩
  · exact .inr ⟨by omega, rfl⟩

theorem sliceEnd_frame (s : State) : SliceFrame s (sliceEnd s) := by
  rcases sliceEnd_cases s with ⟨-, e⟩ | ⟨-, e⟩ <;> rw [e]
  · constructor <;> rfl
  · exact .refl s

/-- The beginning of a slice: a count of its own, or the one it had. -/
theorem sliceBegin_cases (s : State) :
    (s.sched.inSlice = true ∧ sliceBegin s = s) ∨
      (s.sched.inSlice = false ∧ sliceBegin s = s.setSched { s.sched with cyc := 0, inSlice := true }) := by
  unfold sliceBegin
  split_ifs with h
  · exact .inl ⟨h, rfl⟩
  · exact .inr ⟨by simpa using h, rfl⟩

theorem sliceBegin_frame (s : State) : SliceFrame s (sliceBegin s) := by
  rcases sliceBegin_cases s with ⟨-, e⟩ | ⟨-, e⟩ <;> rw [e]
  · exact .refl s
  · constructor <;> rfl

theorem sliceLoop_frame (l : List CpuInstr) (s : State) : SliceFrame s (sliceLoop l s) := by
  induction l generalizing s with
  | nil => exact sliceEnd_frame s
  | cons c rest ih =>
    have h := (sliceFrame_take s rest s.cpu.draws).trans (executeInstr_slice c _).1
    simp only [sliceLoop]
    split_ifs
    · exact h.trans (ih _)
    · exact h
    · exact sliceEnd_frame s

theorem sliceFree_frame (s : State) : SliceFrame s (sliceFree s) := by
  have h : SliceFrame s (executeFree s) := (sliceFrame_take s s.cpu.supplied _).trans (executeInstr_slice _ _).1
  simp only [sliceFree]
  split_ifs
  · exact h.trans (sliceEnd_frame _)
  · exact h
  · exact sliceEnd_frame s

theorem slice_frame (s : State) : SliceFrame s (slice s) := by
  unfold slice
  split
  · exact (sliceBegin_frame s).trans (sliceFree_frame _)
  · exact (sliceBegin_frame s).trans (sliceLoop_frame _ _)

/-- An operation that leaves no slice unfinished ends where it goes on to. -/
theorem execToEnd_finished (n : Nat) (i : Instr) (s t : State) (h : exec i s = .next t) (ht : unfinished i t = false) :
    execToEnd n i s = some (.next t) := by
  cases n <;> (unfold execToEnd; rw [h]; simp [ht])

/-- A list of operations: its first, and the others where that one goes on without a fault. -/
theorem execAll_cons (n : Nat) (i : Instr) (rest : List Instr) (s t : State) (h : execToEnd n i s = some (.next t)) :
    execAll n (i :: rest) s = if t.fault.isNone then execAll n rest t else some (.next t) := by
  rw [execAll, h]

end Sys2Proof.Machine
end

