-- ==== Sys2Proof/Laws/Video.lean ====
section
/-! SUPPORT. What the decoder's operations can change, said once, and what a raster element reads as after a write. -/

namespace Sys2Proof.Machine

/-- A state that differs from `s` in the raster and the fault at most: what the decoder can do (42_video_decode.md). -/
structure RasterFrame (s t : State) : Prop where
  eq : t = { s with raster := t.raster, fault := t.fault }

theorem RasterFrame.refl (s : State) : RasterFrame s s := ⟨rfl⟩

theorem RasterFrame.trans {s t u : State} (h : RasterFrame s t) (g : RasterFrame t u) : RasterFrame s u :=
  ⟨by rw [g.eq, h.eq]⟩

theorem RasterFrame.cfg {s t : State} (h : RasterFrame s t) : t.cfg = s.cfg := by rw [h.eq]

theorem RasterFrame.mem {s t : State} (h : RasterFrame s t) : t.mem = s.mem := by rw [h.eq]

/-- The decoder never changes what it reads. -/
theorem RasterFrame.sourceBit {s t : State} (h : RasterFrame s t) (col b i : Nat) :
    t.sourceBit col b i = s.sourceBit col b i := by
  unfold State.sourceBit
  rw [h.cfg, h.mem]

/-- `CLEAR` leaves nothing listed: `PIX_OFF` is what an unlisted element reads as. -/
theorem clearRaster_eq (s : State) : clearRaster s = s.setRaster [] := by
  simp [clearRaster, Memory.all, Memory.fill]

/-- The source byte's address, and the destination's column, as the rules print them. -/
theorem frameAddr_eq (c : Config) (col b : Nat) : frameAddr c col b = c.vramBase.val + (32 * col + b) := by
  simp [frameAddr, frameOffset]

theorem destColumn_eq (c : Config) (b i : Nat) : destColumn c b i = 256 - (8 * b + i) := by
  simp [destColumn]

/-- `RasterSet` lights an element inside the raster, and raises the fault outside it. -/
theorem rasterSet_cases (row col : Nat) (s : State) :
    (row < s.cfg.rasterRows ∧ col < s.cfg.rasterCols ∧
      rasterSet row col s = s.setRaster (s.raster.write (rasterKey s.cfg row col) s.cfg.pixOn.val)) ∨
    (¬ (row < s.cfg.rasterRows ∧ col < s.cfg.rasterCols) ∧
      rasterSet row col s = s.raise (.rasterOutOfBounds row col)) := by
  unfold rasterSet
  split_ifs with h
  · exact .inl ⟨h.1, h.2, rfl⟩
  · exact .inr ⟨h, rfl⟩

/-- `PIXEL` is nothing on a clear bit and a `RasterSet` of the destination on a set one. -/
theorem decodePixel_cases (col b i : Nat) (s : State) :
    (s.sourceBit col b i = false ∧ decodePixel col b i s = s) ∨
    (s.sourceBit col b i = true ∧ decodePixel col b i s = rasterSet col (destColumn s.cfg b i) s) := by
  unfold decodePixel
  split_ifs with h
  · exact .inr ⟨h, rfl⟩
  · exact .inl ⟨by simpa using h, rfl⟩

theorem decodePixel_frame (col b i : Nat) (s : State) : RasterFrame s (decodePixel col b i s) := by
  rcases decodePixel_cases col b i s with ⟨-, h⟩ | ⟨-, h⟩
  · rw [h]; exact .refl s
  · rcases rasterSet_cases col (destColumn s.cfg b i) s with ⟨-, -, g⟩ | ⟨-, g⟩ <;> rw [h, g] <;> exact ⟨rfl⟩

/-- A property every `PIXEL` of the frame buffer keeps, while no fault is set, holds after the pass. -/
theorem decodeAll_keeps (P : State → Prop)
    (hP : ∀ col b i t, col < 224 → b < 32 → i < 8 → t.fault = none → P t → P (decodePixel col b i t))
    (s : State) (hs : P s) : P (decodeAll s) := by
  unfold decodeAll
  refine sweep_keeps P _ _ (fun col t hc _ h => ?_) s hs
  refine sweep_keeps P _ _ (fun b t hb _ h => ?_) t h
  exact sweep_keeps P _ _ (fun i t hi hf h => hP col b i t (by simpa using hc) (by simpa using hb) (by simpa using hi) hf h) t h

theorem decodeAll_frame (s : State) : RasterFrame s (decodeAll s) :=
  decodeAll_keeps (RasterFrame s) (fun col b i t _ _ _ _ h => h.trans (decodePixel_frame col b i t)) s (.refl s)

/-- An induction over the turns of a loop none of which faults. -/
theorem sweep_induction (P : Nat → State → Prop) (n : Nat) (f : Nat → State → State)
    (hf : ∀ k t, k < n → P k t → P (k + 1) (f k t)) (hn : ∀ k t, P k t → t.fault = none) (s : State) (hs : P 0 s) :
    P n (sweep n f s) := by
  induction n with
  | zero => exact hs
  | succ n ih =>
    have h := ih fun k t hk => hf k t (by omega)
    rw [sweep_succ, hn _ _ h]
    exact hf n _ (by omega) h

/-- A loop begun after a fault does nothing. -/
theorem sweep_faulted (n : Nat) (f : Nat → State → State) (s : State) (h : s.fault ≠ none) : sweep n f s = s := by
  induction n with
  | zero => rfl
  | succ n ih =>
    rw [sweep_succ, ih, if_neg]
    simpa using h

theorem sweep_congr (n : Nat) (f g : Nat → State → State) (h : ∀ k, k < n → f k = g k) (s : State) :
    sweep n f s = sweep n g s := by
  induction n with
  | zero => rfl
  | succ n ih => rw [sweep_succ, sweep_succ, ih fun k hk => h k (by omega), h n (by omega)]

/-- A loop is its first turns and then the others. -/
theorem sweep_add (n m : Nat) (f : Nat → State → State) (s : State) :
    sweep (n + m) f s = sweep m (fun k => f (n + k)) (sweep n f s) := by
  induction m with
  | zero => rfl
  | succ m ih => rw [← Nat.add_assoc, sweep_succ, sweep_succ, ih]

/-- A loop in a loop is one loop over both counts. -/
theorem sweep_sweep (n m : Nat) (hm : 0 < m) (f : Nat → Nat → State → State) (s : State) :
    sweep n (fun k => sweep m (f k)) s = sweep (n * m) (fun x => f (x / m) (x % m)) s := by
  induction n with
  | zero => simp
  | succ n ih =>
    rw [sweep_succ, ih, Nat.succ_mul, sweep_add]
    have e : sweep m (f n) = sweep m fun k => f ((n * m + k) / m) ((n * m + k) % m) := by
      funext t
      refine sweep_congr m _ _ (fun k hk => ?_) t
      rw [Nat.mul_comm n m, Nat.mul_add_div hm, Nat.div_eq_of_lt hk, Nat.mul_add_mod, Nat.mod_eq_of_lt hk, Nat.add_zero]
    split_ifs with h
    · rw [e]
    · exact (sweep_faulted _ _ _ (by simpa using h)).symm

/-- The pass is one loop over the source bits by their linear number (30_encoding.md R85). -/
theorem decodeAll_linear (s : State) :
    decodeAll s = sweep 57344 (fun n => decodePixel (n / 256) (n % 256 / 8) (n % 8)) s := by
  have inner : ∀ col, (sweep 32 fun b => sweep 8 fun i => decodePixel col b i) =
      sweep 256 fun x => decodePixel col (x / 8) (x % 8) := fun col =>
    funext fun t => sweep_sweep 32 8 (by omega) (fun b i => decodePixel col b i) t
  unfold decodeAll
  simp only [Fixed.val_eq, inner]
  rw [sweep_sweep 224 256 (by omega) (fun col x => decodePixel col (x / 8) (x % 8))]
  refine sweep_congr _ _ _ (fun k _ => ?_) s
  rw [show k % 256 % 8 = k % 8 by omega]

/-- Two elements of the raster have different numbers (42_video_decode.md R167 (4)). -/
theorem rasterKey_inj (c : Config) {r x r' x' : Nat} (h : x < c.rasterCols) (h' : x' < c.rasterCols)
    (e : rasterKey c r x = rasterKey c r' x') : r = r' ∧ x = x' := by
  have hc : 0 < c.rasterCols := by omega
  have hd : rasterKey c r x / c.rasterCols = rasterKey c r' x' / c.rasterCols := by rw [e]
  unfold rasterKey at hd e
  rw [Nat.mul_comm, Nat.mul_add_div hc, Nat.mul_comm, Nat.mul_add_div hc, Nat.div_eq_of_lt h, Nat.div_eq_of_lt h'] at hd
  have hr : r = r' := by omega
  subst hr
  exact ⟨rfl, by omega⟩

/-- An element of the raster has a number inside it. -/
theorem rasterKey_lt (c : Config) {r x : Nat} (hr : r < c.rasterRows) (hx : x < c.rasterCols) :
    rasterKey c r x < c.rasterRows * c.rasterCols := by
  have h : (r + 1) * c.rasterCols ≤ c.rasterRows * c.rasterCols := Nat.mul_le_mul_right _ hr
  rw [Nat.succ_mul] at h
  unfold rasterKey
  omega

/-- Lighting an element keeps the raster's form. -/
theorem rasterForm_write (c : Config) (m : Memory) (hm : rasterForm c m) {r x : Nat} (hr : r < c.rasterRows)
    (hx : x < c.rasterCols) : rasterForm c (m.write (rasterKey c r x) c.pixOn.val) := by
  refine ⟨Memory.write_wf _ m hm.1 _ (rasterKey_lt c hr hx) _, fun y hy => ?_⟩
  rcases Memory.mem_write m _ _ y hy with hy | ⟨rfl, -⟩
  · exact hm.2 y hy
  · rfl

theorem rasterForm_nil (c : Config) : rasterForm c [] :=
  ⟨⟨List.Pairwise.nil, fun _ h => by cases h⟩, fun _ h => by cases h⟩

end Sys2Proof.Machine
end

