-- ==== Sys2Proof/Laws/Step.lean ====
section
/-! SUPPORT. What a step, the host's turn, the interrupt delivery and the drain can do, each said once. -/

namespace Sys2Proof.Machine

/-- Where a step goes on, the run was going, and the step was the operation of the next word after the host's turn. -/
theorem step_eq_next (s t : State) (h : step s = .next t) :
    s.running = true ∧ ∃ i, decode (hostTurn s).nextWord = .ok i ∧ exec i ((hostTurn s).setTxn none) = .next t := by
  unfold step at h
  split at h
  · cases h
  · rename_i hf
    split_ifs at h with he
    refine ⟨(State.running_iff s).mpr ⟨hf, by simpa using he⟩, ?_⟩
    split at h
    · rename_i i hi
      exact ⟨i, hi, h⟩
    · cases h

/-- The scheduler's own word is always an operation. -/
theorem decode_schedWord (st : SStep) (ph : Phase) : decode (.sched (schedWord st ph)) = .ok (schedInstr st ph) := by
  cases st <;> cases ph <;> rfl

theorem hostAct_frame (s : State) (a : HostAct) :
    hostAct s a = { s with quit := (hostAct s a).quit, events := (hostAct s a).events } ∧
      (s.quit = true → (hostAct s a).quit = true) := by
  cases a with
  | key k n => exact ⟨rfl, fun h => h⟩
  | quit => exact ⟨rfl, fun _ => rfl⟩

/-- The host's batch writes the queue and the quit latch, which it never lowers. -/
theorem hostActs_frame (batch : List HostAct) (s : State) :
    batch.foldl hostAct s =
        { s with quit := (batch.foldl hostAct s).quit, events := (batch.foldl hostAct s).events } ∧
      (s.quit = true → (batch.foldl hostAct s).quit = true) := by
  induction batch generalizing s with
  | nil => exact ⟨rfl, id⟩
  | cons a rest ih =>
    obtain ⟨e, q⟩ := ih (hostAct s a)
    obtain ⟨e', q'⟩ := hostAct_frame s a
    rw [List.foldl_cons]
    refine ⟨e.trans ?_, fun h => q (q' h)⟩
    generalize (List.foldl hostAct (hostAct s a) rest).quit = x
    generalize (List.foldl hostAct (hostAct s a) rest).events = y
    rw [e']

/-- The host's turn writes the queue, the quit latch and its own coming batches. -/
theorem hostTurn_frame (s : State) :
    hostTurn s =
        { s with host := (hostTurn s).host, quit := (hostTurn s).quit, events := (hostTurn s).events } ∧
      (s.quit = true → (hostTurn s).quit = true) := by
  unfold hostTurn
  split_ifs
  · exact ⟨rfl, id⟩
  · split
    · exact ⟨rfl, id⟩
    · rename_i batch rest _
      obtain ⟨e, q⟩ := hostActs_frame batch (s.setHost rest)
      refine ⟨?_, q⟩
      have hh : (batch.foldl hostAct (s.setHost rest)).host = rest := by rw [e]; rfl
      rw [hh]
      exact e

theorem hostTurn_nil (s : State) (h : s.host = []) : hostTurn s = s := by
  unfold hostTurn
  split_ifs
  · rfl
  · rw [h]

/-- Delivering an interrupt writes the executor's side and the memory. -/
theorem deliver_frame (v : Nat) (s : State) :
    deliver v s = { s with cpu := (deliver v s).cpu, mem := (deliver v s).mem } := by
  unfold deliver
  split <;> rfl

/-- The delivery records the vector and leaves what the CPU was given and what it is to do. -/
theorem deliver_cpu (v : Nat) (s : State) :
    (deliver v s).cpu.vectors = v :: s.cpu.vectors ∧ (deliver v s).cpu.received = s.cpu.received ∧
      (deliver v s).cpu.supplied = s.cpu.supplied := by
  unfold deliver
  split <;> exact ⟨rfl, rfl, rfl⟩

theorem deliver_memWf (v : Nat) (s : State) (h : Memory.wf addrSpace s.mem) : Memory.wf addrSpace (deliver v s).mem := by
  unfold deliver
  split <;> exact Memory.writeAll_wf _ _ h

/-- Applying events writes the Input Register alone. -/
theorem applyEvents_frame (l : List Event) (s : State) :
    l.foldl applyEvent s = s.setIo { s.io with inreg := (l.foldl applyEvent s).io.inreg } := by
  induction l generalizing s with
  | nil => rfl
  | cons e rest ih =>
    rw [List.foldl_cons]
    refine (ih _).trans ?_
    generalize (List.foldl applyEvent (applyEvent s e) rest).io.inreg = x
    rw [applyEvent_eq s e]
    rfl

/-- An access of the CPU keeps the canonical form of its memory. -/
theorem cpuAct_memWf (a : CpuAct) (s : State) (h : Memory.wf addrSpace s.mem) : Memory.wf addrSpace (cpuAct a s).mem := by
  cases a with
  | read p => rcases portRead_cases p s with ⟨-, b, e⟩ | ⟨-, e⟩ <;> simpa [cpuAct, e] using h
  | write p v => rcases portWrite_cases p v s with ⟨-, c, -, e⟩ | ⟨-, e⟩ <;> simpa [cpuAct, e] using h
  | store x b => exact Memory.write_wf _ _ h _ x.isLt _

theorem reset_memWf : Memory.wf addrSpace State.reset.mem := ⟨List.Pairwise.nil, fun _ h => by cases h⟩

end Sys2Proof.Machine
end

