-- ==== Sys2Proof/Tests/Slice0.lean ====
section
/-! SUPPORT. The smoke tests of WellFormed, every constructor's word written out from 30_encoding.md, a few vectors of
95_test_vectors.md (each names its place), and one witness for the hypotheses of each obligation. -/

namespace Sys2Proof.Tests

open Sys2Proof Sys2Proof.Machine

/-- Reset with the shift registers set. -/
def regs (high low : Byte) (offset : BitVec 3) : State := State.reset.setIo ⟨low, high, offset, 0x0001#16⟩

/-- Reset with the Input Register set. -/
def keys (w : InWord) : State := State.reset.setIo ⟨0, 0, 0, w⟩

/-- Reset, standing at a step and a phase. -/
def standing (st : SStep) (ph : Phase) : State := State.reset.setSched ⟨ph, 0, st, false⟩

/-- Reset, with a CPU that executes these instructions. -/
def program (l : List CpuInstr) : State := State.reset.setCpu { CpuSide.empty with supplied := l }

/-- The raster of 95_test_vectors.md V-VD5, one column too small for column 256. -/
def smallConfig : Config := { Config.default with rasterCols := 256 }

/-- V-VD5: frame buffer offset 0 = 0x01 before a raster one column too small, at step 4. -/
def smallRaster : State := ((State.resetWith smallConfig).setMem [(0x2400, 0x01#8)]).setSched ⟨.mid, 0, .four, false⟩

/-- V-VD5, second case: frame buffer offsets 0 and 1 hold only bits whose destinations the small raster has. -/
def smallDrawable : State :=
  ((State.resetWith smallConfig).setMem [(0x2400, 0x80#8), (0x2401, 0x01#8)]).setSched ⟨.mid, 0, .four, false⟩

/-- A raster without column 256; set bits inside it, outside it, and inside again. -/
def lateFault : State :=
  (State.resetWith smallConfig).setMem [(0x2400, 0x80#8), (0x24A0, 0x01#8), (0x3FFF, 0x80#8)]

/-- A budget of 5 cycles. -/
def fastConfig : Config := { Config.default with clockHz := 10, refreshHz := 1 }

/-- A field of the state an operation goes on to. -/
def after {α : Type} (o : Host.Outcome State Fault Refusal) (f : State → α) : Option α := (nextState o).map f

/-- A field of the state a sequence goes on to. -/
def afterAll {α : Type} (o : Option (Host.Outcome State Fault Refusal)) (f : State → α) : Option α := o.bind (after · f)

/-! ### Well-formedness: an ill-formed term for each check -/

theorem test_wf_inUnimpl_port1 : (Instr.inUnimpl 1#8).wf = false := by decide
theorem test_wf_outUnimpl_port4 : (Instr.outUnimpl 4#8 0#8).wf = false := by decide
theorem test_wf_eventNone_id8 : (Instr.eventNone .up 8#4).wf = false := by decide
theorem test_wf_pixel_col224 : (Instr.pixel 224#8 0#5 0#3).wf = false := by decide
theorem test_wf_boundary : (Instr.inUnimpl 4#8).wf = true ∧ (Instr.outUnimpl 1#8 0#8).wf = true ∧
    (Instr.eventNone .up 9#4).wf = true ∧ (Instr.pixel 223#8 31#5 7#3).wf = true := by decide

/-! ### Decoding: every constructor, from the words of 30_encoding.md R82 to R87 -/

theorem test_decode_reads :
    decode (.bus 0b00000000100000000#17) = .ok .in1 ∧ decode (.bus 0b00000001000000000#17) = .ok .in2 ∧
    decode (.bus 0b00000001100000000#17) = .ok .in3 ∧ decode (.bus 0b00000000000000000#17) = .ok (.inUnimpl 0#8) ∧
    decode (.bus 0b01111111100000000#17) = .ok (.inUnimpl 255#8) := by decide

theorem test_decode_writes :
    decode (.bus 0b10000001011111101#17) = .ok (.out2 0xFD#8) ∧
    decode (.bus 0b10000001111111111#17) = .ok (.out3 0xFF#8) ∧
    decode (.bus 0b10000010010100101#17) = .ok (.out4 0xA5#8) ∧
    decode (.bus 0b10000010100000001#17) = .ok (.out5 0x01#8) ∧
    decode (.bus 0b10000011001011010#17) = .ok (.out6 0x5A#8) ∧
    decode (.bus 0b10000000100010010#17) = .ok (.outUnimpl 1#8 0x12#8) ∧
    decode (.bus 0b10000011100000000#17) = .ok (.outUnimpl 7#8 0x00#8) := by decide

theorem test_decode_keys :
    decode (.key 0b10101#5) = .ok (.keySet .p1Fire) ∧ decode (.key 0b10111#5) = .ok (.keySet .p2Right) ∧
    decode (.key 0b00000#5) = .ok (.keyClr .coin) ∧ decode (.key 0b01000#5) = .ok (.keyClr .p2Fire) := by decide

theorem test_decode_presses :
    decode (.event 0b00000#5) = .ok .pressCoin ∧ decode (.event 0b00001#5) = .ok .pressP1Start ∧
    decode (.event 0b00010#5) = .ok .pressP2Start ∧ decode (.event 0b00011#5) = .ok .pressP1Left ∧
    decode (.event 0b00100#5) = .ok .pressP1Right ∧ decode (.event 0b00101#5) = .ok .pressP1Fire ∧
    decode (.event 0b00110#5) = .ok .pressP2Left ∧ decode (.event 0b00111#5) = .ok .pressP2Right ∧
    decode (.event 0b01000#5) = .ok .pressP2Fire ∧ decode (.event 0b01001#5) = .ok (.eventNone .down 9#4) := by decide

theorem test_decode_releases :
    decode (.event 0b10000#5) = .ok .releaseCoin ∧ decode (.event 0b10001#5) = .ok .releaseP1Start ∧
    decode (.event 0b10010#5) = .ok .releaseP2Start ∧ decode (.event 0b10011#5) = .ok .releaseP1Left ∧
    decode (.event 0b10100#5) = .ok .releaseP1Right ∧ decode (.event 0b10101#5) = .ok .releaseP1Fire ∧
    decode (.event 0b10110#5) = .ok .releaseP2Left ∧ decode (.event 0b10111#5) = .ok .releaseP2Right ∧
    decode (.event 0b11000#5) = .ok .releaseP2Fire ∧ decode (.event 0b11111#5) = .ok (.eventNone .up 15#4) := by decide

/-- V-VD1. -/
theorem test_decode_pixels :
    decode (.video 0x0007#16) = .ok (.pixel 0#8 0#5 7#3) ∧ decode (.video 0x0008#16) = .ok (.pixel 0#8 1#5 0#3) ∧
    decode (.video 0x91A3#16) = .ok (.pixel 145#8 20#5 3#3) ∧ decode (.video 0xDFFF#16) = .ok (.pixel 223#8 31#5 7#3) ∧
    decode (.video 0xE000#16) = .error (.pixelOutsideFrame 224#8) := by decide

theorem test_decode_rasterCommands :
    decode (.raster 0b00#2) = .ok .clear ∧ decode (.raster 0b01#2) = .ok .decodePass ∧
    decode (.raster 0b10#2) = .ok .present ∧ decode (.raster 0b11#2) = .error .rasterReserved := by decide

theorem test_decode_steps :
    decode (.sched 0b0010#4) = .ok (.slice .mid) ∧ decode (.sched 0b0011#4) = .ok (.slice .fin) ∧
    decode (.sched 0b0100#4) = .ok .intrMid ∧ decode (.sched 0b0101#4) = .ok .intrEnd ∧
    decode (.sched 0b0110#4) = .ok (.toggle .mid) ∧ decode (.sched 0b1000#4) = .ok .frame ∧
    decode (.sched 0b1001#4) = .ok .frameSkip ∧ decode (.sched 0b1011#4) = .ok (.drain .fin) ∧
    decode (.sched 0b1100#4) = .ok (.quitChk .mid) ∧ decode (.sched 0b1110#4) = .error (.stepUnused 7#3) := by decide

theorem test_decodeTableWord :
    decodeTableWord 24 0x1020B = some (.out2 0x0B#8) ∧ decodeTableWord 16 0xDFF8 = some (.pixel 223#8 31#5 0#3) ∧
    decodeTableWord 8 0x11 = some .releaseP1Start ∧ decodeTableWord 8 0b1100 = some (.quitChk .mid) ∧
    decodeTableWord 16 0xE000 = none := by decide

/-! ### Ports (V-SH) -/

/-- V-SH4. -/
theorem test_in1 : after (exec .in1 (keys 0x2015#16)) (fun t => t.cpu.received) = some [0x15#8] := by decide
/-- V-SH4. -/
theorem test_in2 : after (exec .in2 (keys 0x2015#16)) (fun t => t.cpu.received) = some [0x20#8] := by decide
/-- R102's example. -/
theorem test_in3_offset3 : after (exec .in3 (regs 0x3C#8 0xA5#8 3#3)) (fun t => t.cpu.received) = some [0xE5#8] := by
  decide
/-- S1, row 2: 0x7F, not 0x80 (90_conflicts.md C2). -/
theorem test_in3_offset7 : after (exec .in3 (regs 0x00#8 0xFF#8 7#3)) (fun t => t.cpu.received) = some [0x7F#8] := by
  decide
/-- V-SH6. -/
theorem test_inUnimpl : after (exec (.inUnimpl 6#8) State.reset) (fun t => t.fault) = some (some (.unknownPortRead 6#8)) := by
  decide
/-- V-SH2. -/
theorem test_out2 : after (exec (.out2 0xFD#8) State.reset) (fun t => t.io) = some ⟨0, 0, 5#3, 0x0001#16⟩ := by decide
/-- V-SH5. -/
theorem test_out3 : nextState (exec (.out3 0xFF#8) (regs 0x3C#8 0xA5#8 5#3)) = some (regs 0x3C#8 0xA5#8 5#3) := by decide
/-- R106's example. -/
theorem test_out4 : after (exec (.out4 0x33#8) (regs 0x22#8 0x11#8 0#3)) (fun t => (t.io.low, t.io.high)) =
    some (0x22#8, 0x33#8) := by decide
/-- V-SH5. -/
theorem test_out5 : nextState (exec (.out5 0xFF#8) (regs 0x3C#8 0xA5#8 5#3)) = some (regs 0x3C#8 0xA5#8 5#3) := by decide
/-- V-SH5. -/
theorem test_out6 : nextState (exec (.out6 0x5A#8) (regs 0x3C#8 0xA5#8 5#3)) = some (regs 0x3C#8 0xA5#8 5#3) := by decide
/-- V-SH6. -/
theorem test_outUnimpl : after (exec (.outUnimpl 1#8 0x12#8) State.reset) (fun t => t.fault) =
    some (some (.unknownPortWrite 1#8)) := by decide

/-! ### Keys and events (V-IN, S2, S3) -/

/-- V-IN1. -/
theorem test_keySet : after (exec (.keySet .p2Right) (keys 0x0010#16)) (fun t => t.io.inreg) = some 0x4010#16 := by decide
/-- V-IN1. -/
theorem test_keyClr : after (exec (.keyClr .coin) (keys 0x0011#16)) (fun t => t.io.inreg) = some 0x0010#16 := by decide
/-- S2. -/
theorem test_coin : after (exec .pressCoin State.reset) (fun t => t.io.inreg) = some 0x0000#16 ∧
    after (exec .releaseCoin (keys 0x0000#16)) (fun t => t.io.inreg) = some 0x0001#16 := by decide
/-- S3, the presses. -/
theorem test_presses : ∀ x ∈ [(Instr.pressP1Start, 0x0005#16), (.pressP2Start, 0x0003#16), (.pressP1Left, 0x0021#16),
      (.pressP1Right, 0x0041#16), (.pressP1Fire, 0x0011#16), (.pressP2Left, 0x2001#16), (.pressP2Right, 0x4001#16),
      (.pressP2Fire, 0x1001#16)], after (exec x.1 State.reset) (fun t => t.io.inreg) = some x.2 := by decide
/-- S3, the releases. -/
theorem test_releases : ∀ x ∈ [(Instr.releaseP1Start, 0x0005#16), (.releaseP2Start, 0x0003#16),
      (.releaseP1Left, 0x0021#16), (.releaseP1Right, 0x0041#16), (.releaseP1Fire, 0x0011#16),
      (.releaseP2Left, 0x2001#16), (.releaseP2Right, 0x4001#16), (.releaseP2Fire, 0x1001#16)],
    after (exec x.1 (keys x.2)) (fun t => t.io.inreg) = some 0x0001#16 := by decide
/-- V-IN4. -/
theorem test_eventNone : nextState (exec (.eventNone .up 15#4) (keys 0x2015#16)) = some (keys 0x2015#16) := by decide
/-- V-IN6: a switch table that is not the default. -/
theorem test_otherSwitchTable :
    after (exec .pressP2Fire (State.resetWith { Config.default with swbit := #v[0, 1, 2, 3, 4, 5, 6, 7, 8] }))
      (fun t => t.io.inreg) = some 0x0101#16 := by decide

/-! ### Video (V-VD) -/

/-- V-VD1, row 6. -/
theorem test_pixel : after (exec (.pixel 145#8 20#5 3#3) (State.reset.setMem [(0x3634, 0x08#8)]))
    (fun t => (t.pixelAt 145 93, t.pixelAt 145 92)) = some (255#8, 0#8) := by decide
/-- S5: column 256 is produced. -/
theorem test_pixel_column256 : after (exec (.pixel 0#8 0#5 0#3) (State.reset.setMem [(0x2400, 0x01#8)]))
    (fun t => t.raster) = some [(256, 255#8)] := by decide
/-- R165. -/
theorem test_clear : after (exec .clear (State.reset.setRaster [(256, 255#8)])) (fun t => t.pixelAt 0 256) = some 0#8 := by
  decide
/-- V-VD6. -/
theorem test_present : after (exec .present (State.reset.setRaster [(256, 255#8)])) (fun t => t.presented) =
    some (some [(256, 255#8)]) := by decide
/-- V-VD5: the pass faults at the first set bit outside the raster. -/
theorem test_decodePass_outOfBounds : (decodeAll smallRaster).fault = some (.rasterOutOfBounds 0 256) := by
  decide +kernel

/-- V-VD5, second case: a smaller raster that holds the destination is no fault. -/
theorem test_pixel_smallRaster : after (exec (.pixel 0#8 1#5 0#3) smallDrawable) (fun t => (t.fault, t.raster)) =
    some (none, [(248, 255#8)]) := by decide

/-! ### The scheduler (V-SC, P5) -/

/-- V-SC2: five calls, `cyc` = 16 671. -/
theorem test_slice : after (exec (.slice .mid) (program [⟨[], 16660⟩, ⟨[], 4⟩, ⟨[], 0⟩, ⟨[], 0⟩, ⟨[], 7⟩, ⟨[], 9⟩]))
    (fun t => (t.sched, t.cpu.supplied)) = some (⟨.mid, 16671, .two, false⟩, [⟨[], 9⟩]) := by decide
/-- P5: a fault in the middle of a slice. -/
theorem test_slice_fault :
    after (exec (.slice .mid) (program [⟨[.write 4#8 0x12#8], 10⟩, ⟨[.write 2#8 0x0B#8], 10⟩, ⟨[.read 0#8], 10⟩]))
      (fun t => (t.fault, t.io, t.sched.cyc, t.sched.sstep)) =
    some (some (.unknownPortRead 0#8), ⟨0x00#8, 0x12#8, 3#3, 0x0001#16⟩, 20, .one) := by decide
/-- V-SC3, iteration 1. -/
theorem test_intrMid : after (exec .intrMid (standing .two .mid)) (fun t => (t.cpu.vectors, t.sched.sstep)) =
    some ([1], .three) := by decide
/-- V-SC3, iteration 2. -/
theorem test_intrEnd : after (exec .intrEnd (standing .two .fin)) (fun t => (t.cpu.vectors, t.sched.sstep)) =
    some ([2], .three) := by decide
/-- R185's example. -/
theorem test_toggle : after (exec (.toggle .mid) (standing .three .mid)) (fun t => (t.sched.phase, t.sched.sstep)) =
    some (.fin, .four) := by decide
/-- V-VD5 inside `FRAME`: nothing is presented. -/
theorem test_frame_fault : after (exec .frame smallRaster) (fun t => (t.presented, t.sched.sstep)) =
    some (none, .four) := by
  decide +kernel
/-- R187. -/
theorem test_frameSkip : nextState (exec .frameSkip (standing .four .fin)) = some (standing .five .fin) := by decide
/-- V-SC4, first queue, with the default key map. -/
theorem test_drain : after (exec (.drain .fin) (State.reset.setEvents [⟨.down, 5⟩, ⟨.up, 5⟩, ⟨.down, 0⟩]))
    (fun t => (t.io.inreg, t.events)) = some (0x0000#16, []) := by decide
/-- V-SC4, second and third queue: the later event decides, an unmapped key does nothing. -/
theorem test_drain_order : after (exec (.drain .fin) (State.reset.setEvents [⟨.up, 3⟩, ⟨.down, 3⟩, ⟨.down, 99⟩]))
    (fun t => (t.io.inreg, t.events)) = some (0x0021#16, []) := by decide
/-- R190. -/
theorem test_quitChk : after (exec (.quitChk .fin) State.reset.setQuit) (fun t => t.ended) = some true ∧
    after (exec (.quitChk .fin) (standing .six .fin)) (fun t => (t.ended, t.sched.sstep)) = some (false, .one) := by decide

/-- The model's choice (log entry 6): with no instruction supplied for the rest of the budget, the slice goes on. -/
theorem test_slice_goesOn : after (exec (.slice .mid) (program [⟨[], 16665⟩])) (fun t => t.sched) =
    some ⟨.mid, 16665, .one, true⟩ := by decide

/-! ### The machine -/

/-- A placed word is the next step: V-SH3's first row. -/
theorem test_step_placed : after (step (State.reset.withFetchWord 24 0x10411)) (fun t => (t.io.high, t.txn)) =
    some (0x11#8, none) := by decide
/-- V-SC6: the other budgets. -/
theorem test_budgets : ({ Config.default with clockHz := 1000000, refreshHz := 50 } : Config).budget = 10000 ∧
    ({ Config.default with refreshHz := 59 } : Config).budget = 16949 := by decide
/-- V-RS2: image missing and surface missing reports code 4. -/
theorem test_boot : after (boot Config.default none false) (fun t => t.fault) = some (some .imageLoadFailure) := by decide
/-- The host acts between two steps, in order. -/
theorem test_host : after (step ((standing .four .fin).setHost [[.key .up 0, .key .down 1, .quit]]))
    (fun t => (t.events, t.quit, t.host)) = some ([⟨.up, 0⟩, ⟨.down, 1⟩], true, []) := by decide
/-- P1, rows 1 to 4, and P2. -/
theorem test_shiftPrograms :
    afterAll (execAll 0 (shiftLoad16 0xA5#8 0x3C#8 ++ shiftRead 0x00#8) State.reset) (fun t => t.cpu.received) =
      some [0x3C#8] ∧
    afterAll (execAll 0 (shiftLoad16 0x00#8 0xB7#8 ++ shiftRead 0x03#8 ++ [.out4 0x00#8, .in3]) State.reset)
      (fun t => t.cpu.received) = some [0x05#8, 0xB8#8] := by decide
/-- V-SC3: the step words of two iterations. -/
theorem test_framePair : framePair.map encode = [.sched 0b0010#4, .sched 0b0100#4, .sched 0b0110#4, .sched 0b1001#4,
    .sched 0b1011#4, .sched 0b1101#4, .sched 0b0011#4, .sched 0b0101#4, .sched 0b0111#4, .sched 0b1000#4,
    .sched 0b1010#4, .sched 0b1100#4] := by decide

/-- R93: `ITER` over a slice that meets its budget; over one that does not, it has not ended. -/
theorem test_iter : afterAll (execAll 0 (iter .mid) (program [⟨[], 16666⟩])) (fun t => (t.sched, t.cpu.vectors)) =
      some (⟨.fin, 16666, .one, false⟩, [1]) ∧
    (execAll 0 (iter .mid) (program [⟨[], 16665⟩])).isNone = true := by decide

/-! ### Witnesses: a concrete state and operands that meet the hypotheses of each obligation together -/

/-- A state of a run: reset, standing at a step and a phase, under a configuration. -/
theorem standing_inv (st : SStep) (ph : Phase) : (standing st ph).Inv where
  cfgWf := show Config.default.wf by decide
  memWf := ⟨List.Pairwise.nil, fun _ h => by cases h⟩
  rasterOk := rasterForm_nil _
  presentedOk := fun _ h => by cases h
  inregOk := show 0x0001#16 &&& ~~~ Config.default.assigned = 0#16 by decide
  sliceOk := fun h => by cases h
  txnOk := fun _ h => by cases h
  endedOk := fun h => by cases h

theorem witness_DecodeOfEncodeIsTheInstruction :
    (Instr.pixel 223#8 31#5 7#3).wf = true ∧ (Instr.outUnimpl 255#8 0xFF#8).wf = true := by decide

theorem witness_EncodeOfDecodeIsTheWord :
    decode (.bus 0x003FF#17) = .ok .in3 ∧ decode (.sched 0b1101#4) = .ok (.quitChk .fin) := by decide

theorem witness_NeverIssuedWordsAreRefused :
    9 ≤ ((0b01001#5).extractLsb' 0 4).toNat ∧ 224 ≤ ((0xE000#16).extractLsb' 8 8).toNat ∧
    (0b1111#4).extractLsb' 1 3 = 7#3 ∧ (State.reset.setTxn (some (.raster 3#2))).running = true ∧
    decode (hostTurn (State.reset.setTxn (some (.raster 3#2)))).nextWord = .error .rasterReserved := by decide

theorem witness_InputPortReads : (keys 0x7077#16).running = true := by decide

theorem witness_ShiftWindowRead : (regs 0x80#8 0x01#8 0#3).running = true ∧ (regs 0x80#8 0x01#8 0#3).io.offset = 0#3 ∧
    (regs 0x3C#8 0xA5#8 7#3).running = true := by decide

theorem witness_UnknownPortReadFaults :
    State.reset.running = true ∧ ∀ p ∈ [0#8, 4#8, 255#8], p ≠ 1#8 ∧ p ≠ 2#8 ∧ p ≠ 3#8 := by decide

theorem witness_OffsetWriteKeepsThreeBits : (regs 0x3C#8 0xA5#8 7#3).running = true := by decide

theorem witness_ReservedWritesHaveNoEffect : (regs 0x3C#8 0xA5#8 5#3).running = true := by decide

theorem witness_ShiftInMovesHighToLow : (regs 0x22#8 0x11#8 3#3).running = true := by decide

theorem witness_UnknownPortWriteFaults :
    State.reset.running = true ∧
    ∀ p ∈ [0#8, 1#8, 7#8, 255#8], p ≠ 2#8 ∧ p ≠ 3#8 ∧ p ≠ 4#8 ∧ p ≠ 5#8 ∧ p ≠ 6#8 := by decide

theorem witness_CpuPortAccessIsTheBusOperation :
    State.reset.running = true ∧ decode (.bus (0#1 ++ 2#8 ++ 0x55#8)) = .ok .in2 ∧
    decode (.bus (1#1 ++ 2#8 ++ 0x55#8)) = .ok (.out2 0x55#8) := by decide

theorem witness_KeyOperationsWriteOneBit :
    State.reset.running = true ∧ State.reset.io.inreg.getLsbD (State.reset.cfg.bit .coin) = true ∧
    State.reset.io.inreg.getLsbD (State.reset.cfg.bit .p2Right) = false ∧
    State.reset.io.inreg &&& ~~~ State.reset.cfg.assigned = 0#16 := by decide

theorem witness_CoinActionIsInverted :
    (keys 0x0000#16).running = true ∧ (keys 0x0000#16).io.inreg.getLsbD ((keys 0x0000#16).cfg.bit .coin) = false ∧
    State.reset.running = true ∧ State.reset.io.inreg.getLsbD (State.reset.cfg.bit .coin) = true := by decide

theorem witness_NormalPressSetsItsBit :
    (keys 0x7077#16).running = true ∧ (keys 0x7077#16).cfg.wf ∧
    ∀ a ∈ [Action.p1Start, .p2Start, .p1Left, .p1Right, .p1Fire, .p2Left, .p2Right, .p2Fire],
      (keys 0x7077#16).io.inreg.getLsbD ((keys 0x7077#16).cfg.bit a) = true := by decide

theorem witness_NormalReleaseClearsItsBit :
    State.reset.running = true ∧
    ∀ a ∈ [Action.p1Start, .p2Start, .p1Left, .p1Right, .p1Fire, .p2Left, .p2Right, .p2Fire],
      State.reset.io.inreg.getLsbD (State.reset.cfg.bit a) = false := by decide

theorem witness_EventWithNoActionHasNoEffect :
    (keys 0x2015#16).running = true ∧ 9 ≤ (9#4).toNat ∧ 9 ≤ (15#4).toNat := by decide

theorem witness_MappedEventWritesOnlyItsOwnBit : State.reset.running = true ∧ State.reset.cfg.wf := by decide

/-- A set bit whose destination even the smaller raster holds, and a clear bit whose destination it does not. -/
theorem witness_PixelWritesItsDestination :
    smallDrawable.running = true ∧ (0#8).toNat < 224 ∧
    (∀ x ∈ [(0#5, 7#3), (1#5, 0#3), (0#5, 0#3)],
      (smallDrawable.mem.read (smallDrawable.cfg.vramBase.val + 32 * (0#8).toNat + x.1.toNat)).getLsbD x.2.toNat = true →
        (0#8).toNat < smallDrawable.cfg.rasterRows ∧ 256 - (8 * x.1.toNat + x.2.toNat) < smallDrawable.cfg.rasterCols) ∧
    (smallDrawable.mem.read (smallDrawable.cfg.vramBase.val + 32 * (0#8).toNat + (0#5).toNat)).getLsbD (7#3).toNat = true ∧
    ¬ 256 - (8 * (0#5).toNat + (0#3).toNat) < smallDrawable.cfg.rasterCols ∧
    Memory.wf (smallDrawable.cfg.rasterRows * smallDrawable.cfg.rasterCols) smallDrawable.raster ∧
    State.reset.running = true ∧ (223#8).toNat < 224 ∧ State.reset.cfg.fits := by decide +kernel

theorem witness_PixelOutsideTheFrameIsRefused : 224 ≤ (224#8).toNat ∧ 224 ≤ (255#8).toNat := by decide

theorem witness_PixelOutOfBoundsFaults :
    smallRaster.running = true ∧ (0#8).toNat < 224 ∧
    (smallRaster.mem.read (smallRaster.cfg.vramBase.val + 32 * (0#8).toNat + (0#5).toNat)).getLsbD (0#3).toNat = true ∧
    ¬ ((0#8).toNat < smallRaster.cfg.rasterRows ∧
      256 - (8 * (0#5).toNat + (0#3).toNat) < smallRaster.cfg.rasterCols) := by decide

/-- Every source bit of the second case of V-VD5 that is set has its destination in the raster. -/
theorem smallDrawable_drawable : smallDrawable.drawable := by
  intro n hn h
  have h0 : n / 8 = 0 ∨ n / 8 = 1 := by
    by_contra hc
    obtain ⟨h0, h1⟩ := not_or.mp hc
    have hr : smallDrawable.mem.read (smallDrawable.cfg.vramBase.val + n / 8) = 0#8 := by
      change (if 0x2400 = 0x2400 + n / 8 then 0x80#8 else if 0x2401 = 0x2400 + n / 8 then 0x01#8 else 0#8) = 0#8
      rw [if_neg (by omega), if_neg (by omega)]
    rw [State.frameBit, hr] at h
    simp at h
  have hl : n < 16 := by omega
  have hb : ∀ m, m < 16 → smallDrawable.frameBit m = true → smallDrawable.cfg.holds m = true := by decide
  exact hb n hl h

theorem witness_DecodePassOverlaysTheFrameBuffer :
    (smallDrawable.setRaster [(255, 255#8)]).running = true ∧ (smallDrawable.setRaster [(255, 255#8)]).drawable ∧
    Memory.wf ((smallDrawable.setRaster [(255, 255#8)]).cfg.rasterRows *
      (smallDrawable.setRaster [(255, 255#8)]).cfg.rasterCols) (smallDrawable.setRaster [(255, 255#8)]).raster ∧
    Config.default.fits ∧ ¬ smallConfig.fits :=
  ⟨by decide, smallDrawable_drawable, by decide, by decide, by decide⟩

/-- No set bit outside; the first source bit outside; a set bit inside, then one outside (source bit 1280, in column 256 of
row 5), then the last one of the frame. -/
theorem witness_DecodePassFaultsOnlyOutOfBounds :
    smallDrawable.running = true ∧ smallDrawable.drawable ∧
    (smallRaster.running = true ∧ smallRaster.frameBit 0 = true ∧ smallRaster.cfg.holds 0 = false ∧
      (∀ m, m < 0 → smallRaster.frameBit m = true → smallRaster.cfg.holds m = true) ∧
      Memory.wf (smallRaster.cfg.rasterRows * smallRaster.cfg.rasterCols) smallRaster.raster) ∧
    (lateFault.running = true ∧ lateFault.frameBit 1280 = true ∧ lateFault.cfg.holds 1280 = false ∧
      (∀ m, m < 1280 → lateFault.frameBit m = true → lateFault.cfg.holds m = true) ∧ lateFault.frameBit 7 = true ∧
      lateFault.frameBit 57343 = true) := by
  refine ⟨by decide, smallDrawable_drawable, by decide, by decide, by decide, by decide, fun m hm h => ?_, by decide,
    by decide⟩
  by_cases h0 : m < 8
  · exact (show ∀ k, k < 8 → lateFault.frameBit k = true → lateFault.cfg.holds k = true by decide) m h0 h
  · have hr : lateFault.mem.read (lateFault.cfg.vramBase.val + m / 8) = 0#8 := by
      change (if 0x2400 = 0x2400 + m / 8 then 0x80#8 else if 0x24A0 = 0x2400 + m / 8 then 0x01#8
        else if 0x3FFF = 0x2400 + m / 8 then 0x80#8 else 0#8) = 0#8
      rw [if_neg (by omega), if_neg (by omega), if_neg (by omega)]
    rw [State.frameBit, hr] at h
    simp at h

theorem witness_ClearDarkensEveryElement : (State.reset.setRaster [(256, 255#8)]).running = true := by decide

theorem witness_PresentCopiesTheRaster : (State.reset.setRaster [(256, 255#8)]).running = true := by decide

theorem witness_FramePresentsTheFrameBuffer : smallDrawable.running = true ∧ smallDrawable.drawable :=
  ⟨by decide, smallDrawable_drawable⟩

theorem witness_FrameFaultPresentsNothing :
    (smallRaster.running = true ∧
      exec .decodePass { smallRaster with raster := [] } = .next (decodeAll { smallRaster with raster := [] }) ∧
      (decodeAll { smallRaster with raster := [] }).fault ≠ none) ∧
    exec .frame smallRaster = .next (drawFrame smallRaster) ∧ (drawFrame smallRaster).fault ≠ none :=
  ⟨⟨by decide, rfl, by decide +kernel⟩, rfl, by decide +kernel⟩

/-- The three outcomes: a fault; the budget met exactly; one cycle missing. -/
theorem witness_SliceLeavesTheRestAlone :
    ((program [⟨[.read 0#8], 16666⟩]).running = true ∧
      after (exec (.slice .mid) (program [⟨[.read 0#8], 16666⟩])) (fun t => t.fault.isSome) = some true) ∧
    ((program [⟨[], 16666⟩]).running = true ∧ Config.default.budget = 16666 ∧
      after (exec (.slice .mid) (program [⟨[], 16666⟩])) (fun t => (t.fault, t.sched.cyc)) = some (none, 16666)) ∧
    ((program [⟨[], 16665⟩]).running = true ∧
      after (exec (.slice .mid) (program [⟨[], 16665⟩])) (fun t => (t.fault, t.sched.cyc)) = some (none, 16665)) := by
  decide

theorem witness_SliceRunsToTheBudget :
    (program [⟨[.read 3#8, .write 4#8 0x12#8], 16660⟩, ⟨[], 0⟩, ⟨[.store 0#16 1#8], 6⟩]).running = true ∧
    (program [⟨[.read 3#8, .write 4#8 0x12#8], 16660⟩, ⟨[], 0⟩, ⟨[.store 0#16 1#8], 6⟩]).sched.inSlice = false ∧
    1 ≤ Config.default.budget ∧
    (∀ c ∈ [(⟨[.read 3#8, .write 4#8 0x12#8], 16660⟩ : CpuInstr), ⟨[], 0⟩, ⟨[.store 0#16 1#8], 6⟩], c.ok = true) ∧
    Config.default.budget ≤ totalCost [⟨[.read 3#8, .write 4#8 0x12#8], 16660⟩, ⟨[], 0⟩, ⟨[.store 0#16 1#8], 6⟩] := by
  decide

/-- A faulting read and a faulting write, each after other accesses of its instruction, one cycle below the budget. -/
theorem witness_PortFaultEndsTheSlice : ∀ bad ∈ [CpuAct.read 0#8, .read 4#8, .write 1#8 0x12#8, .write 7#8 0#8],
    (program ([⟨[.write 4#8 0x12#8], 16665⟩] ++ ⟨[.read 3#8, .store 0#16 1#8] ++ bad :: [.read 1#8], 10⟩ :: [])).running =
      true ∧
    (program ([⟨[.write 4#8 0x12#8], 16665⟩] ++
      ⟨[.read 3#8, .store 0#16 1#8] ++ bad :: [.read 1#8], 10⟩ :: [])).sched.inSlice = false ∧
    (∀ c ∈ [(⟨[.write 4#8 0x12#8], 16665⟩ : CpuInstr)], c.ok = true) ∧
    totalCost [⟨[.write 4#8 0x12#8], 16665⟩] < Config.default.budget ∧
    [CpuAct.read 3#8, .store 0#16 1#8].all CpuAct.ok = true ∧ bad.ok = false := by
  decide

theorem witness_CpuStoreWritesOneByte :
    (program [⟨[.store 0xFFFF#16 0x5A#8], 16666⟩]).running = true ∧
    (program [⟨[.store 0xFFFF#16 0x5A#8], 16666⟩]).sched.inSlice = false ∧ 1 ≤ Config.default.budget ∧
    Config.default.budget ≤ 16666 ∧ Memory.wf addrSpace (program [⟨[.store 0xFFFF#16 0x5A#8], 16666⟩]).mem := by decide

theorem witness_InterruptDeliversItsVector :
    ((standing .two .mid).setCpu { CpuSide.empty with responses := [[(0x2400#16, 1#8)]] }).running = true ∧
    ((standing .two .mid).setCpu { CpuSide.empty with responses := [[(0x2400#16, 1#8)]] }).cpu.responses =
      [(0x2400#16, 1#8)] :: [] := by decide

theorem witness_ToggleFlipsThePhase :
    (standing .three .mid).running = true ∧ (∀ p ∈ [Phase.mid, .fin], Instr.frameSkip ≠ .toggle p) ∧
    exec .frameSkip (standing .four .fin) = .next (standing .five .fin) := ⟨by decide, by decide, rfl⟩

theorem witness_FrameSkipDrawsNothing : (standing .four .fin).running = true := by decide

theorem witness_DrainAppliesTheLastEventOfEachAction :
    (State.reset.setEvents [⟨.down, 5⟩, ⟨.up, 5⟩, ⟨.down, 99⟩]).running = true ∧
    (State.reset.setEvents [⟨.down, 5⟩, ⟨.up, 5⟩, ⟨.down, 99⟩]).cfg.wf ∧
    lastKind Config.default [⟨.down, 5⟩, ⟨.up, 5⟩, ⟨.down, 99⟩] .p1Fire = some .up ∧
    lastKind Config.default [⟨.down, 5⟩, ⟨.up, 5⟩, ⟨.down, 99⟩] .coin = none := by decide

theorem witness_QuitCheckEndsTheRun :
    (standing .six .fin).setQuit.running = true ∧ (standing .six .fin).setQuit.quit = true ∧
    (standing .six .fin).running = true ∧ (standing .six .fin).quit = false := by decide

theorem witness_BudgetIsTheFloorOfTheRatio : 1 ≤ fastConfig.refreshHz ∧ 1 ≤ Config.default.refreshHz := by decide

theorem witness_IterationAfterTheSlice : ∀ ph ∈ [Phase.mid, Phase.fin],
    (standing .two ph).running = true ∧ (standing .two ph).txn = none ∧ (standing .two ph).host = [] ∧
    (standing .two ph).quit = false ∧ (standing .two ph).sched.inSlice = false ∧
    (standing .two ph).sched.sstep = .two ∧ (standing .two ph).cfg.fits ∧ (standing .two ph).sched.phase = ph := by decide

/-- A CPU that reports 2 cycles for each of 6 calls, against a budget of 5. -/
def stub : State := (State.resetWith fastConfig).setCpu { CpuSide.empty with supplied := List.replicate 6 ⟨[], 2⟩ }

theorem witness_TwoTogglesDeliverTwoVectorsAndDrawOnce :
    stub.running = true ∧ stub.txn = none ∧ stub.host = [] ∧ stub.quit = false ∧ stub.sched.inSlice = false ∧
    stub.sched.sstep = .one ∧ stub.sched.phase = .mid ∧ stub.cfg.fits ∧ 1 ≤ stub.cfg.budget ∧ 1 ≤ 2 ∧
    2 * ((stub.cfg.budget + 2 - 1) / 2) ≤ 6 ∧ stub.cpu.supplied = List.replicate 6 ⟨[], 2⟩ := by decide

/-- Both clauses: quit clear and quit set, and a fault of the slice. -/
theorem witness_IterRunsTheSliceToItsEnd :
    (∀ s ∈ [stub, stub.setQuit, program [⟨[.read 0#8], 7⟩]],
      s.running = true ∧ s.txn = none ∧ s.host = [] ∧ s.sched.inSlice = false ∧ s.sched.sstep = .one ∧
      (afterAll (execAll 0 (iter s.sched.phase) s) fun t => t.fault.isNone) = some (s.cfg.budget == 5)) ∧
    ∀ s ∈ [stub, stub.setQuit], s.cfg.fits ∧ 1 ≤ s.cfg.budget ∧ (∀ c ∈ s.cpu.supplied, c.ok = true) ∧
      s.cfg.budget ≤ totalCost s.cpu.supplied := by decide

theorem witness_PseudoOperationsAreTheirSequences :
    (regs 0xFF#8 0xFF#8 7#3).running = true ∧ (regs 0xFF#8 0xFF#8 7#3).cfg.wf ∧ Action.p1Fire ≠ Action.coin := by decide

theorem witness_StepRunsTheDecodedInstruction :
    (standing .five .fin).running = true ∧ (standing .five .fin).txn = none ∧
    decode (hostTurn (standing .five .fin)).nextWord = .ok (.drain .fin) := by decide

theorem witness_PlacedWordRunsNext :
    State.reset.running = true ∧ State.reset.host = [] ∧ decodeTableWord 24 0x104A5 = some (.out4 0xA5#8) ∧
    decodeTableWord 16 0x0000 = some (.pixel 0#8 0#5 0#3) ∧ decodeTableWord 8 0b1001 = some .frameSkip := by decide

theorem witness_FaultIsAbsorbing :
    (State.reset.raise (.unknownPortRead 0#8)).fault = some (.unknownPortRead 0#8) ∧
    State.reset.finish.fault = none ∧ State.reset.finish.ended = true ∧ Instr.in1.wf = true := by decide

theorem witness_FaultsOfTheLoop :
    (∃ t, (program [⟨[.read 0#8], 10⟩]).txn = none ∧ step (program [⟨[.read 0#8], 10⟩]) = .next t ∧
      t.fault = some (.unknownPortRead 0#8)) ∧
    (∃ t, smallRaster.txn = none ∧ step smallRaster = .next t ∧ t.fault = some (.rasterOutOfBounds 0 256)) :=
  ⟨⟨_, rfl, rfl, rfl⟩, ⟨drawFrame smallRaster, rfl, rfl, by decide +kernel⟩⟩

theorem witness_RasterFaultIsUnreachable :
    (standing .four .fin).cfg.fits ∧ step (standing .four .fin) = .next (standing .five .fin) := ⟨by decide, rfl⟩

theorem witness_WhoWritesWhat :
    (standing .four .fin).txn = none ∧ step (standing .four .fin) = .next (standing .five .fin) ∧
    (standing .three .mid).txn = none ∧ step (standing .three .mid) = .next (standing .four .fin) ∧
    (standing .six .fin).setQuit.quit = true ∧
    step (standing .six .fin).setQuit = .next (standing .six .fin).setQuit.finish :=
  ⟨rfl, rfl, rfl, rfl, rfl, rfl⟩

theorem witness_HostActsOnlyBetweenSteps :
    (State.reset.setSched ⟨.mid, 7, .one, true⟩).sched.inSlice = true ∧
    (State.reset.setHost [[.key .down 0, .quit]]).sched.inSlice = false ∧
    (State.reset.setHost [[.key .down 0, .quit]]).host = [.key .down 0, .quit] :: [] := by decide

theorem witness_BootLoadsTheImageOrFails :
    (List.replicate 9216 0xFF#8).length ≤ Config.default.vramBase.val ∧ 3 < [0x3E#8, 0x03#8, 0xD3#8, 0x02#8].length ∧
    Config.default.vramBase.val < (List.replicate 9217 0xFF#8).length := by
  simp only [List.length_replicate]
  decide

theorem witness_InvariantHoldsAtReset : Config.default.wf ∧ fastConfig.wf := by decide

theorem witness_EveryStepKeepsTheInvariant :
    (standing .three .mid).Inv ∧ step (standing .three .mid) = .next (standing .four .fin) := ⟨standing_inv _ _, rfl⟩

theorem witness_UnassignedBitsReadZero :
    (standing .one .mid).Inv ∧ (standing .one .mid).cfg.swbit = Config.default.swbit := ⟨standing_inv _ _, rfl⟩

end Sys2Proof.Tests
end

section
/-! SUPPORT. Rules about the port operations (40_port_io.md sections 1 and 2): what the decoder reads from a bus word,
what `exec` does with each port operation on a going run, and the arithmetic of the offset and the shift window. -/

namespace Sys2Proof

/-- Format B: `d` selects between the two maps, and only a write's `v` is an operand (30_encoding.md R81). -/
theorem decodeBus_append (d : BitVec 1) (p : Port) (v : Byte) :
    decodeBus (d ++ p ++ v) = if d.getLsbD 0 then decodeWrite p v else decodeRead p := by
  have hd : (d ++ p ++ v).getLsbD 16 = d.getLsbD 0 := by rw [BitVec.getLsbD_append, BitVec.getLsbD_append]; rfl
  have hp : (d ++ p ++ v).extractLsb' 8 8 = p := by
    rw [BitVec.extractLsb'_append_eq_of_le (le_refl 8), BitVec.extractLsb'_append_eq_right]
  have hv : (d ++ p ++ v).extractLsb' 0 8 = v := BitVec.extractLsb'_append_eq_right
  rw [decodeBus, hd, hp, hv]

theorem decode_bus_read (p : Port) (v : Byte) : decode (.bus (0#1 ++ p ++ v)) = .ok (decodeRead p) :=
  congrArg Except.ok (decodeBus_append 0#1 p v)

theorem decode_bus_write (p : Port) (v : Byte) : decode (.bus (1#1 ++ p ++ v)) = .ok (decodeWrite p v) :=
  congrArg Except.ok (decodeBus_append 1#1 p v)

/-- A write's word as its three shifted fields (30_encoding.md R81). -/
theorem writeWord_eq_or (p : Port) (v : Byte) :
    writeWord p v = (1#1).setWidth 17 <<< 16 ||| p.setWidth 17 <<< 8 ||| v.setWidth 17 :=
  (BitVec.setWidth_eq _).symm.trans BitVec.setWidth_append_append_eq_shiftLeft_setWidth_or

/-- A write's word is the match value of its row with `v` in the low bits (30_encoding.md R82). -/
theorem writeWord_zero_or (p : Port) (v : Byte) : writeWord p 0#8 ||| v.setWidth 17 = writeWord p v := by
  rw [writeWord_eq_or p v, writeWord_eq_or p 0#8, BitVec.setWidth_zero, BitVec.or_zero]

/-- The operation of a port's match value with any `v` in the low bits. -/
theorem decode_bus_writeWord_or (p : Port) (v : Byte) :
    decode (.bus (writeWord p 0#8 ||| v.setWidth 17)) = .ok (decodeWrite p v) := by
  rw [writeWord_zero_or]
  exact decode_bus_write p v

/-- A write to a port outside 2 to 6 selects the last row (30_encoding.md R82). -/
theorem decodeWrite_unimpl (p : Port) (v : Byte) (h2 : p ≠ 2#8) (h3 : p ≠ 3#8) (h4 : p ≠ 4#8) (h5 : p ≠ 5#8)
    (h6 : p ≠ 6#8) : decodeWrite p v = .outUnimpl p v := by
  simp [decodeWrite, h2, h3, h4, h5, h6]

namespace Machine

section
variable (s : State) (p : Port) (v : Byte) (h : s.running = true)
include h

theorem exec_in3_of_running : exec .in3 s = .next (s.receive s.io.window) :=
  perform_running readPort3 s h

theorem exec_inUnimpl_of_running : exec (.inUnimpl p) s = .next (s.raise (.unknownPortRead p)) :=
  perform_running (readUnknown p) s h

theorem exec_out2_of_running : exec (.out2 v) s = .next (s.setIo { s.io with offset := maskOffset v }) :=
  perform_running (writePort2 v) s h

theorem exec_out3_of_running : exec (.out3 v) s = .next s :=
  perform_running (writeIgnored v) s h

theorem exec_out4_of_running : exec (.out4 v) s = .next (s.setIo { s.io with low := s.io.high, high := v }) :=
  perform_running (writePort4 v) s h

theorem exec_out5_of_running : exec (.out5 v) s = .next s :=
  perform_running (writeIgnored v) s h

theorem exec_out6_of_running : exec (.out6 v) s = .next s :=
  perform_running (writeIgnored v) s h

theorem exec_outUnimpl_of_running : exec (.outUnimpl p v) s = .next (s.raise (.unknownPortWrite p)) :=
  perform_running (writeUnknown p) s h

end

/-- The Controller has no part in whether the run is going. -/
@[simp] theorem State.setIo_running (s : State) (x : Controller) : (s.setIo x).running = s.running := rfl

/-- Keeping the low three bits is masking with `0x07` (40_port_io.md R104). -/
theorem maskOffset_eq_and (v : Byte) : maskOffset v = (v &&& 0x07#8).setWidth 3 := by
  have hmask : (0x07#8).setWidth 3 = BitVec.allOnes 3 := rfl
  rw [BitVec.setWidth_and, hmask, BitVec.and_allOnes, BitVec.setWidth_eq_extractLsb' (by decide), maskOffset]

theorem maskOffset_toNat (v : Byte) : (maskOffset v).toNat = v.toNat % 8 := by
  simp [maskOffset]

/-- `(high << 8) | low` is `high` written before `low` (10_state.md R21). -/
theorem Controller.pair_eq_append (c : Controller) : c.pair = c.high ++ c.low := by
  rw [Controller.pair, ← BitVec.setWidth_append_eq_shiftLeft_setWidth_or, BitVec.setWidth_eq]

/-- The shift window as a slice of `{high, low}` (40_port_io.md R102). -/
theorem Controller.window_eq_append (c : Controller) :
    c.window = ((c.high ++ c.low) >>> (8 - c.offset.toNat)).extractLsb' 0 8 := by
  rw [Controller.window, c.pair_eq_append]

/-- The window `IN 3` reads right after `OUT 2, v`: the shift is by `8 - v mod 8` (40_port_io.md R102, R104). -/
theorem window_writePort2 (s : State) (v : Byte) :
    (writePort2 v s).io.window = ((s.io.high ++ s.io.low) >>> (8 - v.toNat % 8)).extractLsb' 0 8 := by
  rw [← maskOffset_toNat]
  exact Controller.window_eq_append _

end Machine

end Sys2Proof
end

section
/-! The obligations about port writes (40_port_io.md section 2), each settled from the rules above. -/

open Sys2Proof Sys2Proof.Machine

/-- Settles O9: the stored offset is `maskOffset v`, of value `v % 8`, whatever offset stood there before. -/
theorem offsetWriteKeepsThreeBits : Obligations.OffsetWriteKeepsThreeBits := by
  intro s v hs
  rw [← maskOffset_eq_and]
  have hs' : (writePort2 v s).running = true := (s.setIo_running _).trans hs
  refine ⟨decode_bus_writeWord_or 2#8 v, exec_out2_of_running s v hs, maskOffset_toNat v,
    exec_out2_of_running _ v hs', ⟨_, exec_in3_of_running _ hs', ?_⟩, exec_out2_of_running s 0x0B#8 hs⟩
  exact congrArg (· :: s.cpu.received) (window_writePort2 s v)

/-- Settles O10: the three writes are `writeIgnored`, and ports 5 and 6 are not readable. -/
theorem reservedWritesHaveNoEffect : Obligations.ReservedWritesHaveNoEffect := fun s v hs =>
  ⟨⟨decode_bus_writeWord_or 3#8 v, exec_out3_of_running s v hs⟩,
    ⟨decode_bus_writeWord_or 5#8 v, exec_out5_of_running s v hs⟩,
    ⟨decode_bus_writeWord_or 6#8 v, exec_out6_of_running s v hs⟩,
    ⟨_, exec_inUnimpl_of_running s 5#8 hs, rfl⟩,
    ⟨_, exec_inUnimpl_of_running s 6#8 hs, rfl⟩,
    decode_bus_read 5#8 0#8, decode_bus_read 6#8 0#8⟩

/-- Settles O11: the second write starts from `high = v`, which it moves to `low`. -/
theorem shiftInMovesHighToLow : Obligations.ShiftInMovesHighToLow := by
  intro s v w hs
  have hs' : (writePort4 v s).running = true := (s.setIo_running _).trans hs
  exact ⟨decode_bus_writeWord_or 4#8 v, exec_out4_of_running s v hs, exec_out4_of_running _ w hs'⟩

/-- Settles O12: the port map sends every other port to the fault. -/
theorem unknownPortWriteFaults : Obligations.UnknownPortWriteFaults := by
  intro s p v hs h2 h3 h4 h5 h6
  refine ⟨?_, exec_outUnimpl_of_running s p v hs, rfl⟩
  rw [decode_bus_write, decodeWrite_unimpl p v h2 h3 h4 h5 h6]

end

section
/-! SUPPORT. Rules about the key operations and the mapped events (41_input_events.md): the switch masks of a
configuration, what the decoder reads from words of formats K and E, and what `exec` does with them on a going run. -/

namespace Sys2Proof

/-! ### Switch masks -/

/-- `SWBIT` names a bit of the Input Register (00_scope.md R7). -/
theorem Config.bit_lt (c : Config) (a : Action) : c.bit a < 16 := (c.swbit[a.index]).isLt

/-- The nine actions stand in id order (10_state.md R24). -/
theorem Action.all_get_index (a : Action) : Action.all.get a.index = a := by cases a <;> rfl

theorem Action.index_injective : Function.Injective Action.index :=
  Function.LeftInverse.injective (g := Action.all.get) Action.all_get_index

/-- A legal `SWBIT` gives different actions different bits (00_scope.md R7). -/
theorem Config.bit_injective (c : Config) (hc : c.wf) : Function.Injective c.bit := by
  intro a b hab
  obtain ⟨hnodup, -⟩ := hc
  have hentry : c.swbit[a.index] = c.swbit[b.index] := Fin.ext hab
  have hindex : a.index.val = b.index.val := by
    apply hnodup.getElem_inj_iff (hi := by simp) (hj := by simp) |>.mp
    simpa using hentry
  exact Action.index_injective (Fin.ext hindex)

@[simp] theorem Config.getLsbD_switchMask (c : Config) (a : Action) (i : Nat) :
    (c.switchMask a).getLsbD i = decide (c.bit a = i) := by
  have hmask : c.switchMask a = BitVec.twoPow 16 (c.bit a) := rfl
  simp [hmask, BitVec.getLsbD_twoPow, c.bit_lt a]

@[simp] theorem Config.getLsbD_assigned_bit (c : Config) (a : Action) : c.assigned.getLsbD (c.bit a) = true := by
  cases a <;> simp [Config.assigned, Action.all]

/-- A switch's own bit is an assigned one (10_state.md R24). -/
theorem Config.switchMask_and_not_assigned (c : Config) (a : Action) : c.switchMask a &&& ~~~c.assigned = 0#16 := by
  apply BitVec.eq_of_getLsbD_eq
  intro i _
  by_cases hi : c.bit a = i
  · subst hi
    simp
  · simp [hi]

/-- Setting a switch's bit sets no unassigned bit (41_input_events.md R130). -/
theorem Config.or_switchMask_and_not_assigned (c : Config) (a : Action) (x : InWord)
    (hx : x &&& ~~~c.assigned = 0#16) : (x ||| c.switchMask a) &&& ~~~c.assigned = 0#16 := by
  rw [BitVec.and_or_distrib_right, hx, c.switchMask_and_not_assigned]
  rfl

theorem Config.or_switchMask_of_set (c : Config) (a : Action) (x : InWord) (hx : x.getLsbD (c.bit a) = true) :
    x ||| c.switchMask a = x := by
  apply BitVec.eq_of_getLsbD_eq
  intro i _
  by_cases hi : c.bit a = i
  · subst hi
    simp [hx]
  · simp [hi]

theorem Config.and_not_switchMask_of_clear (c : Config) (a : Action) (x : InWord)
    (hx : x.getLsbD (c.bit a) = false) : x &&& ~~~c.switchMask a = x := by
  apply BitVec.eq_of_getLsbD_eq
  intro i hlt
  by_cases hi : c.bit a = i
  · subst hi
    simp [hx]
  · rw [BitVec.getLsbD_and, BitVec.getLsbD_not, c.getLsbD_switchMask]
    simp only [hi, hlt, decide_true, decide_false, Bool.not_false, Bool.and_true]

/-- Setting a switch's bit leaves the bit of every other action (41_input_events.md R134). -/
theorem Config.getLsbD_or_switchMask_of_ne (c : Config) (hc : c.wf) {a b : Action} (hba : b ≠ a) (x : InWord) :
    (x ||| c.switchMask a).getLsbD (c.bit b) = x.getLsbD (c.bit b) := by
  have hbits : c.bit a ≠ c.bit b := fun h => hba (c.bit_injective hc h.symm)
  simp [hbits]

/-! ### Words of formats K and E -/

theorem Action.ofId_toId (a : Action) : Action.ofId a.toId = some a := by cases a <;> rfl

theorem EventKind.ofBit_toBit (k : EventKind) : EventKind.ofBit (k.toBit.getLsbD 0) = k := by cases k <;> rfl

theorem append_id_getLsbD_four (d : BitVec 1) (a : BitVec 4) : (d ++ a).getLsbD 4 = d.getLsbD 0 := by
  rw [BitVec.getLsbD_append]
  rfl

/-- Format K: `d` selects between setting and clearing (30_encoding.md R83). -/
theorem decode_key_toId (d : BitVec 1) (a : Action) :
    decode (.key (d ++ a.toId)) = .ok (if d.getLsbD 0 then .keySet a else .keyClr a) := by
  rw [decode, decodeKey, BitVec.extractLsb'_append_eq_right, append_id_getLsbD_four, Action.ofId_toId]

/-- Format E: a word with an action's id selects its mapped event (30_encoding.md R84). -/
theorem decode_eventWord_toId (k : EventKind) (a : Action) :
    decode (.event (eventWord k a.toId)) = .ok (eventInstr k a) := by
  rw [decode, decodeEvent, eventWord, BitVec.extractLsb'_append_eq_right, append_id_getLsbD_four, Action.ofId_toId,
    EventKind.ofBit_toBit]

namespace Machine

/-! ### Key operations and normal events on a going run -/

theorem keySet_of_set (a : Action) (s : State) (h : s.io.inreg.getLsbD (s.cfg.bit a) = true) : keySet a s = s := by
  rw [keySet, s.cfg.or_switchMask_of_set a _ h]
  rfl

theorem keyClr_of_clear (a : Action) (s : State) (h : s.io.inreg.getLsbD (s.cfg.bit a) = false) : keyClr a s = s := by
  rw [keyClr, s.cfg.and_not_switchMask_of_clear a _ h]
  rfl

theorem exec_keySet_of_running (a : Action) (s : State) (h : s.running = true) :
    exec (.keySet a) s = .next (keySet a s) :=
  perform_running (keySet a) s h

theorem exec_keyClr_of_running (a : Action) (s : State) (h : s.running = true) :
    exec (.keyClr a) s = .next (keyClr a s) :=
  perform_running (keyClr a) s h

/-- The nine press rows have one meaning, over the action (41_input_events.md R132 to R148). -/
theorem exec_pressInstr (a : Action) (s : State) : exec (pressInstr a) s = perform (pressAction a) s := by
  cases a <;> rfl

/-- The nine release rows have one meaning, over the action (41_input_events.md R133 to R149). -/
theorem exec_releaseInstr (a : Action) (s : State) : exec (releaseInstr a) s = perform (releaseAction a) s := by
  cases a <;> rfl

theorem exec_pressInstr_of_ne_coin (a : Action) (ha : a ≠ .coin) (s : State) (h : s.running = true) :
    exec (pressInstr a) s = .next (keySet a s) := by
  rw [exec_pressInstr, perform_running _ s h, pressAction, if_neg ha]

theorem exec_releaseInstr_of_ne_coin (a : Action) (ha : a ≠ .coin) (s : State) (h : s.running = true) :
    exec (releaseInstr a) s = .next (keyClr a s) := by
  rw [exec_releaseInstr, perform_running _ s h, releaseAction, if_neg ha]

end Machine

/-- The row (operation, action, word, default bit) is the one of a normal action's event of kind `k`. -/
abbrev NormalEventRow (k : EventKind) (x : Instr × Action × BitVec 5 × Nat) : Prop :=
  x.1 = eventInstr k x.2.1 ∧ x.2.1 ≠ .coin ∧ x.2.2.1 = eventWord k x.2.1.toId ∧ Config.default.bit x.2.1 = x.2.2.2

end Sys2Proof
end

section
/-! The obligations about the key operations and the normal events (41_input_events.md sections 1 and 3), each settled
from the rules above. -/

open Sys2Proof Sys2Proof.Machine

/-- Settles O14: the two operations are `keySet` and `keyClr`, and a switch's bit is an assigned one. -/
theorem keyOperationsWriteOneBit : Obligations.KeyOperationsWriteOneBit := by
  intro s a hs
  have hset := exec_keySet_of_running a s hs
  have hclr := exec_keyClr_of_running a s hs
  exact ⟨decode_key_toId 1#1 a, hset, fun h => hset.trans (congrArg _ (keySet_of_set a s h)),
    s.cfg.or_switchMask_and_not_assigned a s.io.inreg,
    decode_key_toId 0#1 a, hclr, fun h => hclr.trans (congrArg _ (keyClr_of_clear a s h)), rfl, rfl⟩

/-- Settles O16: each of the eight rows is the press of an action other than the coin, which is `keySet`. -/
theorem normalPressSetsItsBit : Obligations.NormalPressSetsItsBit := by
  intro s hs x hx
  have hrow : NormalEventRow .down x := by
    revert x
    decide
  obtain ⟨hinstr, hcoin, hword, hbit⟩ := hrow
  rw [hinstr, hword]
  have hset := exec_pressInstr_of_ne_coin _ hcoin s hs
  exact ⟨decode_eventWord_toId .down _, hset, fun h => hset.trans (congrArg _ (keySet_of_set _ s h)),
    fun hwf b hb => s.cfg.getLsbD_or_switchMask_of_ne hwf hb s.io.inreg, hbit⟩

/-- Settles O17: each of the eight rows is the release of an action other than the coin, which is `keyClr`. -/
theorem normalReleaseClearsItsBit : Obligations.NormalReleaseClearsItsBit := by
  intro s hs x hx
  have hrow : NormalEventRow .up x := by
    revert x
    decide
  obtain ⟨hinstr, hcoin, hword, hbit⟩ := hrow
  rw [hinstr, hword]
  have hclr := exec_releaseInstr_of_ne_coin _ hcoin s hs
  exact ⟨decode_eventWord_toId .up _, hclr, fun h => hclr.trans (congrArg _ (keyClr_of_clear _ s h)), hbit⟩

end

section
/-! SUPPORT. The phase of the scheduler (10_state.md R28): `TOGGLE` and the two deliveries on a going run
(43_scheduler.md R183 to R185), and the phase left alone by each operation but `TOGGLE`. -/

namespace Sys2Proof

theorem Phase.other_eq_ite (p : Phase) : p.other = if p = .mid then .fin else .mid := by cases p <;> rfl

namespace Machine

section
variable (s : State) (h : s.running = true)
include h

theorem exec_toggle_of_running (ph : Phase) : exec (.toggle ph) s = .next (togglePhase s) :=
  perform_running togglePhase s h

theorem exec_intrMid_of_running : exec .intrMid s = .next ((deliver s.cfg.vecMid s).goto .three) :=
  perform_running (fun t => (deliver t.cfg.vecMid t).goto .three) s h

theorem exec_intrEnd_of_running : exec .intrEnd s = .next ((deliver s.cfg.vecEnd s).goto .three) :=
  perform_running (fun t => (deliver t.cfg.vecEnd t).goto .three) s h

end

theorem RasterFrame.phase {s t : State} (h : RasterFrame s t) : t.sched.phase = s.sched.phase := by rw [h.eq]

theorem deliver_phase (v : Nat) (s : State) : (deliver v s).sched.phase = s.sched.phase := by rw [deliver_frame]

/-- Drawing moves the step at most: the clear and the pass change the raster and the fault alone. -/
theorem drawFrame_phase (s : State) : (drawFrame s).sched.phase = s.sched.phase := by
  have hpass : (decodeAll (clearRaster s)).sched.phase = s.sched.phase := (decodeAll_frame (clearRaster s)).phase
  simp only [drawFrame]
  split
  · exact hpass
  · exact hpass

theorem drainEvents_phase (s : State) : (drainEvents s).sched.phase = s.sched.phase := by
  rw [drainEvents, applyEvents_frame]
  rfl

theorem quitCheck_phase (s : State) : (quitCheck s).sched.phase = s.sched.phase := by
  unfold quitCheck
  split <;> rfl

/-- An operation that keeps the phase keeps it where it is performed. -/
theorem perform_keeps_phase {op : State → State} {s t : State} (h : perform op s = .next t)
    (hop : (op s).sched.phase = s.sched.phase) : t.sched.phase = s.sched.phase := by
  obtain ⟨-, rfl⟩ := perform_eq_next op s t h
  exact hop

/-- Only `TOGGLE` writes the phase. The updates of the port, key and event operations, of `CLEAR` and of `PRESENT` name
no field of the scheduler, and `FRAME.SKIP` names the step alone: there the phase is kept by computation. -/
theorem exec_keeps_phase {i : Instr} {s t : State} (hi : ∀ p, i ≠ .toggle p) (h : exec i s = .next t) :
    t.sched.phase = s.sched.phase := by
  cases i with
  | toggle ph => exact absurd rfl (hi ph)
  | slice ph => exact perform_keeps_phase h (slice_frame s).phase
  | intrMid =>
    exact perform_keeps_phase (op := fun u => (deliver u.cfg.vecMid u).goto .three) h (deliver_phase _ s)
  | intrEnd =>
    exact perform_keeps_phase (op := fun u => (deliver u.cfg.vecEnd u).goto .three) h (deliver_phase _ s)
  | frameSkip => exact perform_keeps_phase (op := fun u => u.goto .five) h rfl
  | frame => exact perform_keeps_phase h (drawFrame_phase s)
  | drain ph => exact perform_keeps_phase h (drainEvents_phase s)
  | quitChk ph => exact perform_keeps_phase h (quitCheck_phase s)
  | decodePass => exact perform_keeps_phase h (decodeAll_frame s).phase
  | pixel col b k =>
    rw [exec, execPixel] at h
    split at h
    · exact perform_keeps_phase h (decodePixel_frame _ _ _ s).phase
    · cases h
  | _ => exact perform_keeps_phase h rfl

end Machine

end Sys2Proof
end

section
/-! The obligation about the phase flip (43_scheduler.md section 2), settled from the rules above. -/

open Sys2Proof Sys2Proof.Machine

/-- Settles O34: `TOGGLE` is `togglePhase`, and every other operation keeps the phase. -/
theorem toggleFlipsThePhase : Obligations.ToggleFlipsThePhase := by
  intro s ph hs
  refine ⟨decode_schedWord .three ph, ?_, fun i t hi h => exec_keeps_phase hi h, ?_⟩
  · rw [← Phase.other_eq_ite]
    exact exec_toggle_of_running s hs ph
  · exact List.forall_mem_cons.mpr ⟨⟨_, exec_intrMid_of_running s hs, rfl⟩,
      List.forall_mem_singleton.mpr ⟨_, exec_intrEnd_of_running s hs, rfl⟩⟩

end

section
/-! SUPPORT. The decoder and the encoder undo each other, one format at a time (30_encoding.md R81 to R89). -/

namespace Sys2Proof

/-! ### Ids, kinds, phases and steps, read and written back -/

theorem Action.ofId_eq_none_iff : ∀ a : BitVec 4, Action.ofId a = none ↔ 9 ≤ a.toNat := by decide

theorem Action.toId_of_mem_ofId : ∀ a : BitVec 4, ∀ x ∈ Action.ofId a, x.toId = a := by decide

theorem SStep.ofBits_eq_none_iff : ∀ b : BitVec 3, SStep.ofBits b = none ↔ b = 0#3 ∨ b = 7#3 := by decide

theorem SStep.toBits_of_mem_ofBits : ∀ b : BitVec 3, ∀ x ∈ SStep.ofBits b, x.toBits = b := by decide

theorem EventKind.toBit_ofBit (b : Bool) : (EventKind.ofBit b).toBit = BitVec.ofBool b := by cases b <;> rfl

theorem Phase.toBit_ofBit (b : Bool) : (Phase.ofBit b).toBit = BitVec.ofBool b := by cases b <;> rfl

/-! ### Words as their fields one after another -/

/-- A field of one bit is that bit. -/
theorem extractLsb'_one_eq_ofBool {n : Nat} (w : BitVec n) (i : Nat) :
    w.extractLsb' i 1 = BitVec.ofBool (w.getLsbD i) := by
  apply BitVec.eq_of_getLsbD_eq
  intro j hj
  obtain rfl : j = 0 := by omega
  simp

/-- A word of formats K and E: one bit and an id. -/
theorem idWord_eq_fields (w : BitVec 5) : BitVec.ofBool (w.getLsbD 4) ++ w.extractLsb' 0 4 = w := by
  rw [← extractLsb'_one_eq_ofBool]
  exact BitVec.extractLsb'_append_extractLsb' (w := 1) (len := 4)

/-- A word of format S: a step number and the phase bit. -/
theorem schedWord_eq_fields (w : BitVec 4) : w.extractLsb' 1 3 ++ BitVec.ofBool (w.getLsbD 0) = w := by
  rw [← extractLsb'_one_eq_ofBool]
  exact BitVec.extractLsb'_append_extractLsb' (w := 3) (len := 1)

/-- A word of format V: a column, a byte index and a bit index. -/
theorem videoWord_eq_fields (w : BitVec 16) : w.extractLsb' 8 8 ++ w.extractLsb' 3 5 ++ w.extractLsb' 0 3 = w := by
  rw [BitVec.extractLsb'_append_extractLsb'_eq_extractLsb' (by decide)]
  exact BitVec.extractLsb'_append_extractLsb' (w := 13) (len := 3)

/-- A word of format B: the direction, the port and the byte. -/
theorem busWord_eq_fields (w : BitVec 17) :
    BitVec.ofBool (w.getLsbD 16) ++ w.extractLsb' 8 8 ++ w.extractLsb' 0 8 = w := by
  rw [← extractLsb'_one_eq_ofBool, BitVec.extractLsb'_append_extractLsb'_eq_extractLsb' (by decide)]
  exact BitVec.extractLsb'_append_extractLsb' (w := 9) (len := 8)

/-! ### Format B -/

theorem decodeRead_of_not_readable {p : Port} (hp : readable p = false) : decodeRead p = .inUnimpl p := by
  simp only [readable, Bool.or_eq_false_iff, beq_eq_false_iff_ne] at hp
  obtain ⟨⟨h1, h2⟩, h3⟩ := hp
  simp [decodeRead, h1, h2, h3]

theorem decodeWrite_of_not_writable {p : Port} (v : Byte) (hp : writable p = false) :
    decodeWrite p v = .outUnimpl p v := by
  simp only [writable, Bool.or_eq_false_iff, beq_eq_false_iff_ne] at hp
  obtain ⟨⟨⟨⟨h2, h3⟩, h4⟩, h5⟩, h6⟩ := hp
  exact decodeWrite_unimpl p v h2 h3 h4 h5 h6

/-- Every port read is a well-formed operation, and its word names the port. -/
theorem decodeRead_wf_and_word (p : Port) : (decodeRead p).wf = true ∧ encode (decodeRead p) = .bus (readWord p) := by
  unfold decodeRead
  split_ifs with h1 h2 h3
  · subst h1; exact ⟨rfl, rfl⟩
  · subst h2; exact ⟨rfl, rfl⟩
  · subst h3; exact ⟨rfl, rfl⟩
  · exact ⟨by simp [Instr.wf, readable, h1, h2, h3], rfl⟩

/-- Every port write is a well-formed operation, and its word names the port and the byte. -/
theorem decodeWrite_wf_and_word (p : Port) (v : Byte) :
    (decodeWrite p v).wf = true ∧ encode (decodeWrite p v) = .bus (writeWord p v) := by
  unfold decodeWrite
  split_ifs with h2 h3 h4 h5 h6
  · subst h2; exact ⟨rfl, rfl⟩
  · subst h3; exact ⟨rfl, rfl⟩
  · subst h4; exact ⟨rfl, rfl⟩
  · subst h5; exact ⟨rfl, rfl⟩
  · subst h6; exact ⟨rfl, rfl⟩
  · exact ⟨by simp [Instr.wf, writable, h2, h3, h4, h5, h6], rfl⟩

/-- The word of a read is the word read with its `v` bits cleared (30_encoding.md R81). -/
theorem readWord_eq_and (w : BitVec 17) (hw : w.getLsbD 16 = false) :
    readWord (w.extractLsb' 8 8) = w &&& 0x1FF00#17 := by
  have hmask : 0x1FF00#17 = BitVec.allOnes 1 ++ BitVec.allOnes 8 ++ 0#8 := by decide
  conv => rhs; rw [← busWord_eq_fields w, hmask]
  rw [BitVec.and_append, BitVec.and_append, BitVec.and_allOnes, BitVec.and_allOnes, BitVec.and_zero, hw]
  rfl

/-! ### Formats E and V -/

/-- An id no action has selects `EVENT.NONE`, with the kind and the id (30_encoding.md R84). -/
theorem decode_eventWord_none (k : EventKind) {a : BitVec 4} (ha : 9 ≤ a.toNat) :
    decode (.event (eventWord k a)) = .ok (.eventNone k a) := by
  rw [decode, decodeEvent, eventWord, BitVec.extractLsb'_append_eq_right, append_id_getLsbD_four,
    (Action.ofId_eq_none_iff a).mpr ha, EventKind.ofBit_toBit]

theorem eventInstr_wf_and_word (k : EventKind) (a : Action) :
    (eventInstr k a).wf = true ∧ encode (eventInstr k a) = .event (eventWord k a.toId) := by
  cases k <;> cases a <;> exact ⟨rfl, rfl⟩

/-- A word of format V with a column of the frame buffer selects its pixel (30_encoding.md R85). -/
theorem decode_videoWord {col : BitVec 8} (b : BitVec 5) (i : BitVec 3) (hcol : col.toNat < 224) :
    decode (.video (col ++ b ++ i)) = .ok (.pixel col b i) := by
  have hc : (col ++ b ++ i).extractLsb' 8 8 = col := by
    rw [BitVec.extractLsb'_append_eq_of_le (by decide), BitVec.extractLsb'_append_eq_left]
  have hb : (col ++ b ++ i).extractLsb' 3 5 = b := by
    rw [BitVec.extractLsb'_append_eq_of_le (le_refl 3), BitVec.extractLsb'_append_eq_right]
  have hi : (col ++ b ++ i).extractLsb' 0 3 = i := BitVec.extractLsb'_append_eq_right
  rw [decode, decodeVideo, hc, hb, hi, if_pos hcol]

/-! ### Format S -/

theorem schedInstr_wf_and_word (st : SStep) (ph : Phase) :
    (schedInstr st ph).wf = true ∧ encode (schedInstr st ph) = .sched (schedWord st ph) := by
  cases st <;> cases ph <;> exact ⟨rfl, rfl⟩

/-! ### What each decoder reads is well formed and has the word read -/

section
variable {i : Instr}

theorem decodeKey_sound {w : BitVec 5} (h : decodeKey w = .ok i) : i.wf = true ∧ encode i = .key w := by
  unfold decodeKey at h
  split at h
  · cases h
  · rename_i a ha
    have hid : a.toId = w.extractLsb' 0 4 := Action.toId_of_mem_ofId _ a ha
    have hw := idWord_eq_fields w
    injection h with h
    split_ifs at h with hc <;> subst h
    · rw [hc] at hw
      exact ⟨rfl, congrArg Txn.key ((congrArg (1#1 ++ ·) hid).trans hw)⟩
    · rw [eq_false_of_ne_true hc] at hw
      exact ⟨rfl, congrArg Txn.key ((congrArg (0#1 ++ ·) hid).trans hw)⟩

theorem decodeEvent_sound (w : BitVec 5) : (decodeEvent w).wf = true ∧ encode (decodeEvent w) = .event w := by
  have hw : eventWord (EventKind.ofBit (w.getLsbD 4)) (w.extractLsb' 0 4) = w := by
    rw [eventWord, EventKind.toBit_ofBit, idWord_eq_fields]
  unfold decodeEvent
  split
  · rename_i ha
    exact ⟨decide_eq_true ((Action.ofId_eq_none_iff _).mp ha), congrArg Txn.event hw⟩
  · rename_i a ha
    obtain ⟨hwf, he⟩ := eventInstr_wf_and_word (EventKind.ofBit (w.getLsbD 4)) a
    rw [Action.toId_of_mem_ofId _ a ha, hw] at he
    exact ⟨hwf, he⟩

theorem decodeVideo_sound {w : BitVec 16} (h : decodeVideo w = .ok i) : i.wf = true ∧ encode i = .video w := by
  unfold decodeVideo at h
  split_ifs at h with hcol
  injection h with h
  subst h
  exact ⟨decide_eq_true hcol, congrArg Txn.video (videoWord_eq_fields w)⟩

theorem decodeRaster_sound {w : BitVec 2} (h : decodeRaster w = .ok i) : i.wf = true ∧ encode i = .raster w := by
  unfold decodeRaster at h
  split_ifs at h with h0 h1 h2 <;> injection h with h <;> subst h
  · exact ⟨rfl, congrArg Txn.raster h0.symm⟩
  · exact ⟨rfl, congrArg Txn.raster h1.symm⟩
  · exact ⟨rfl, congrArg Txn.raster h2.symm⟩

theorem decodeSched_sound {w : BitVec 4} (h : decodeSched w = .ok i) : i.wf = true ∧ encode i = .sched w := by
  unfold decodeSched at h
  split at h
  · cases h
  · rename_i st hst
    injection h with h
    subst h
    obtain ⟨hwf, he⟩ := schedInstr_wf_and_word st (Phase.ofBit (w.getLsbD 0))
    rw [schedWord, SStep.toBits_of_mem_ofBits _ st hst, Phase.toBit_ofBit, schedWord_eq_fields] at he
    exact ⟨hwf, he⟩

end

/-! ### Words that are refused -/

/-- A word is refused exactly where `P` holds, if it is refused there by the name `r` and read elsewhere. -/
theorem refused_exactly {P : Prop} {x : Except Reject Instr} {r : Reject} (hr : P → x = .error r)
    (hok : ¬ P → ∃ i, x = .ok i) : (P ↔ ∃ r, x = .error r) ∧ (P → x = .error r) := by
  refine ⟨⟨fun h => ⟨r, hr h⟩, fun ⟨r', h'⟩ => ?_⟩, hr⟩
  by_contra hP
  obtain ⟨i, hi⟩ := hok hP
  rw [hi] at h'
  cases h'

theorem decodeKey_refuses {w : BitVec 5} (h : 9 ≤ (w.extractLsb' 0 4).toNat) :
    decodeKey w = .error (.keyIdUnused (w.extractLsb' 0 4)) := by
  rw [decodeKey, (Action.ofId_eq_none_iff _).mpr h]

theorem decodeKey_reads {w : BitVec 5} (h : ¬ 9 ≤ (w.extractLsb' 0 4).toNat) : ∃ i, decodeKey w = .ok i := by
  obtain ⟨a, ha⟩ := Option.ne_none_iff_exists'.mp (mt (Action.ofId_eq_none_iff _).mp h)
  exact ⟨_, by rw [decodeKey, ha]⟩

theorem decodeVideo_refuses {w : BitVec 16} (h : 224 ≤ (w.extractLsb' 8 8).toNat) :
    decodeVideo w = .error (.pixelOutsideFrame (w.extractLsb' 8 8)) := if_neg (Nat.not_lt.mpr h)

theorem decodeVideo_reads {w : BitVec 16} (h : ¬ 224 ≤ (w.extractLsb' 8 8).toNat) : ∃ i, decodeVideo w = .ok i :=
  ⟨_, if_pos (Nat.not_le.mp h)⟩

theorem decodeRaster_reads : ∀ w : BitVec 2, w ≠ 3#2 → ∃ i, decodeRaster w = .ok i := by
  intro w hw
  have h : w = 0#2 ∨ w = 1#2 ∨ w = 2#2 := by
    revert w
    decide
  obtain rfl | rfl | rfl := h <;> exact ⟨_, rfl⟩

theorem decodeSched_refuses {w : BitVec 4} (h : w.extractLsb' 1 3 = 0#3 ∨ w.extractLsb' 1 3 = 7#3) :
    decodeSched w = .error (.stepUnused (w.extractLsb' 1 3)) := by
  rw [decodeSched, (SStep.ofBits_eq_none_iff _).mpr h]

theorem decodeSched_reads {w : BitVec 4} (h : ¬ (w.extractLsb' 1 3 = 0#3 ∨ w.extractLsb' 1 3 = 7#3)) :
    ∃ i, decodeSched w = .ok i := by
  obtain ⟨st, hst⟩ := Option.ne_none_iff_exists'.mp (mt (SStep.ofBits_eq_none_iff _).mp h)
  exact ⟨_, by rw [decodeSched, hst]⟩

namespace Machine

/-- A step of a run that is going performs the operation its next word selects, after the host's turn. -/
theorem step_of_decode_ok {s : State} {i : Instr} (h : s.running = true) (hi : decode (hostTurn s).nextWord = .ok i) :
    step s = exec i ((hostTurn s).setTxn none) := by
  obtain ⟨hf, he⟩ := (State.running_iff s).mp h
  simp [step, hf, he, hi]

theorem step_of_decode_error {s : State} {r : Reject} (h : s.running = true)
    (hr : decode (hostTurn s).nextWord = .error r) : step s = .refused (.neverIssued r) := by
  obtain ⟨hf, he⟩ := (State.running_iff s).mp h
  simp [step, hf, he, hr]

end Machine

end Sys2Proof
end

section
/-! The obligations about words (30_encoding.md), each settled from the rules above. -/

open Sys2Proof Sys2Proof.Machine

/-- Settles O1, operation by operation, each by the rule of its format. -/
theorem decodeOfEncodeIsTheInstruction : Obligations.DecodeOfEncodeIsTheInstruction := by
  intro i hi
  cases i with
  | in1 => exact decode_bus_read 1#8 0#8
  | in2 => exact decode_bus_read 2#8 0#8
  | in3 => exact decode_bus_read 3#8 0#8
  | inUnimpl p =>
    refine (decode_bus_read p 0#8).trans (congrArg Except.ok (decodeRead_of_not_readable ?_))
    simpa [Instr.wf] using hi
  | out2 v => exact decode_bus_write 2#8 v
  | out3 v => exact decode_bus_write 3#8 v
  | out4 v => exact decode_bus_write 4#8 v
  | out5 v => exact decode_bus_write 5#8 v
  | out6 v => exact decode_bus_write 6#8 v
  | outUnimpl p v =>
    refine (decode_bus_write p v).trans (congrArg Except.ok (decodeWrite_of_not_writable v ?_))
    simpa [Instr.wf] using hi
  | keySet a => exact decode_key_toId 1#1 a
  | keyClr a => exact decode_key_toId 0#1 a
  | pressCoin => exact decode_eventWord_toId .down .coin
  | releaseCoin => exact decode_eventWord_toId .up .coin
  | pressP1Start => exact decode_eventWord_toId .down .p1Start
  | releaseP1Start => exact decode_eventWord_toId .up .p1Start
  | pressP2Start => exact decode_eventWord_toId .down .p2Start
  | releaseP2Start => exact decode_eventWord_toId .up .p2Start
  | pressP1Left => exact decode_eventWord_toId .down .p1Left
  | releaseP1Left => exact decode_eventWord_toId .up .p1Left
  | pressP1Right => exact decode_eventWord_toId .down .p1Right
  | releaseP1Right => exact decode_eventWord_toId .up .p1Right
  | pressP1Fire => exact decode_eventWord_toId .down .p1Fire
  | releaseP1Fire => exact decode_eventWord_toId .up .p1Fire
  | pressP2Left => exact decode_eventWord_toId .down .p2Left
  | releaseP2Left => exact decode_eventWord_toId .up .p2Left
  | pressP2Right => exact decode_eventWord_toId .down .p2Right
  | releaseP2Right => exact decode_eventWord_toId .up .p2Right
  | pressP2Fire => exact decode_eventWord_toId .down .p2Fire
  | releaseP2Fire => exact decode_eventWord_toId .up .p2Fire
  | eventNone k a => exact decode_eventWord_none k (of_decide_eq_true hi)
  | pixel col b k => exact decode_videoWord b k (of_decide_eq_true hi)
  | clear => rfl
  | decodePass => rfl
  | present => rfl
  | slice ph => exact decode_schedWord .one ph
  | intrMid => exact decode_schedWord .two .mid
  | intrEnd => exact decode_schedWord .two .fin
  | toggle ph => exact decode_schedWord .three ph
  | frame => exact decode_schedWord .four .mid
  | frameSkip => exact decode_schedWord .four .fin
  | drain ph => exact decode_schedWord .five ph
  | quitChk ph => exact decode_schedWord .six ph

/-- Settles O2, interface by interface; only a port read loses bits of its word. -/
theorem encodeOfDecodeIsTheWord : Obligations.EncodeOfDecodeIsTheWord := by
  intro t i h
  cases t with
  | bus w =>
    have hw := busWord_eq_fields w
    obtain rfl : decodeBus w = i := Except.ok.inj h
    unfold decodeBus
    split_ifs with hd
    · obtain ⟨hwf, he⟩ := decodeWrite_wf_and_word (w.extractLsb' 8 8) (w.extractLsb' 0 8)
      rw [hd] at hw
      exact ⟨hwf, .inl (he.trans (congrArg Txn.bus hw))⟩
    · obtain ⟨hwf, he⟩ := decodeRead_wf_and_word (w.extractLsb' 8 8)
      have hd' : w.getLsbD 16 = false := eq_false_of_ne_true hd
      exact ⟨hwf, .inr ⟨w, rfl, hd', he.trans (congrArg Txn.bus (readWord_eq_and w hd'))⟩⟩
  | key w => exact (decodeKey_sound h).imp_right .inl
  | event w =>
    obtain rfl : decodeEvent w = i := Except.ok.inj h
    exact (decodeEvent_sound w).imp_right .inl
  | video w => exact (decodeVideo_sound h).imp_right .inl
  | raster w => exact (decodeRaster_sound h).imp_right .inl
  | sched w => exact (decodeSched_sound h).imp_right .inl

/-- Settles O3: each format refuses its words by name and reads every other, and a step passes the refusal on. -/
theorem neverIssuedWordsAreRefused : Obligations.NeverIssuedWordsAreRefused := by
  refine ⟨fun w => refused_exactly decodeKey_refuses decodeKey_reads,
    fun w => refused_exactly decodeVideo_refuses decodeVideo_reads,
    fun w => refused_exactly (fun h => by rw [h]; rfl) (decodeRaster_reads w),
    fun w => refused_exactly decodeSched_refuses decodeSched_reads,
    fun w => ⟨_, rfl⟩, fun w => ⟨_, rfl⟩, fun s r => step_of_decode_error⟩

/-- Settles O4: each of the thirteen words is read by computation. -/
theorem specWordsDecode : Obligations.SpecWordsDecode := by
  unfold Obligations.SpecWordsDecode
  decide

/-- Settles O18: the id selects `EVENT.NONE`, whose operation is the identity. -/
theorem eventWithNoActionHasNoEffect : Obligations.EventWithNoActionHasNoEffect :=
  fun s k _ hs ha => ⟨decode_eventWord_none k ha, perform_running id s hs⟩

end

section
/-! SUPPORT. What `exec` and `step` do, said once: the operation each instruction performs, where it is performed, and
the two ways a step comes to its instruction (43_scheduler.md R191, 60_exceptions.md R214). -/

namespace Sys2Proof.Machine

/-- The operation an instruction performs on a run that is going (the rules named at `Instr`). -/
def meaning : Instr → State → State
  | .in1 => readPort1
  | .in2 => readPort2
  | .in3 => readPort3
  | .out2 v => writePort2 v
  | .out3 v => writeIgnored v
  | .out4 v => writePort4 v
  | .out5 v => writeIgnored v
  | .out6 v => writeIgnored v
  | .inUnimpl p => readUnknown p
  | .outUnimpl p _ => writeUnknown p
  | .keySet a => keySet a
  | .keyClr a => keyClr a
  | .pressCoin => pressAction .coin
  | .releaseCoin => releaseAction .coin
  | .pressP1Start => pressAction .p1Start
  | .releaseP1Start => releaseAction .p1Start
  | .pressP2Start => pressAction .p2Start
  | .releaseP2Start => releaseAction .p2Start
  | .pressP1Left => pressAction .p1Left
  | .releaseP1Left => releaseAction .p1Left
  | .pressP1Right => pressAction .p1Right
  | .releaseP1Right => releaseAction .p1Right
  | .pressP1Fire => pressAction .p1Fire
  | .releaseP1Fire => releaseAction .p1Fire
  | .pressP2Left => pressAction .p2Left
  | .releaseP2Left => releaseAction .p2Left
  | .pressP2Right => pressAction .p2Right
  | .releaseP2Right => releaseAction .p2Right
  | .pressP2Fire => pressAction .p2Fire
  | .releaseP2Fire => releaseAction .p2Fire
  | .eventNone _ _ => id
  | .pixel col b k => decodePixel col.toNat b.toNat k.toNat
  | .clear => clearRaster
  | .decodePass => decodeAll
  | .present => presentRaster
  | .slice _ => slice
  | .intrMid => fun t => (deliver t.cfg.vecMid t).goto .three
  | .intrEnd => fun t => (deliver t.cfg.vecEnd t).goto .three
  | .toggle _ => togglePhase
  | .frame => drawFrame
  | .frameSkip => fun t => t.goto .five
  | .drain _ => drainEvents
  | .quitChk _ => quitCheck

/-- A well-formed instruction performs its meaning. -/
theorem exec_eq_perform {i : Instr} (hi : i.wf = true) (s : State) : exec i s = perform (meaning i) s := by
  cases i with
  | pixel col b k =>
    have hcol : col.toNat < s.cfg.fbCols.val := by
      rw [Fixed.val_eq]
      exact of_decide_eq_true hi
    exact if_pos hcol
  | _ => rfl

/-- Where an instruction goes on, well-formed or not, it performed its meaning. -/
theorem exec_eq_next {i : Instr} {s t : State} (h : exec i s = .next t) : s.running = true ∧ t = meaning i s := by
  cases i with
  | pixel col b k =>
    rw [exec, execPixel] at h
    split_ifs at h
    exact perform_eq_next _ s t h
  | _ => exact perform_eq_next _ s t h

theorem exec_of_running {i : Instr} {s : State} (hi : i.wf = true) (hs : s.running = true) :
    exec i s = .next (meaning i s) := (exec_eq_perform hi s).trans (perform_running _ s hs)

theorem exec_of_faulted {i : Instr} {s : State} {r : FaultRecord} (hi : i.wf = true) (hs : s.fault = some r) :
    exec i s = .fault (.faulted r) := (exec_eq_perform hi s).trans (perform_faulted _ s r hs)

theorem exec_of_ended {i : Instr} {s : State} (hi : i.wf = true) (hf : s.fault = none) (he : s.ended = true) :
    exec i s = .refused .runOver := (exec_eq_perform hi s).trans (perform_ended _ s hf he)

theorem step_of_faulted {s : State} {r : FaultRecord} (hs : s.fault = some r) : step s = .fault (.faulted r) := by
  simp [step, hs]

theorem step_of_ended {s : State} (hf : s.fault = none) (he : s.ended = true) : step s = .refused .runOver := by
  simp [step, hf, he]

/-! ### The two ways to the next instruction -/

/-- The state a step's operation is performed on: after the host's turn, the presented word taken. -/
def State.ready (s : State) : State := (hostTurn s).setTxn none

/-- Before the operation only the host's fields, the queue, the quit latch and the presented word have moved. -/
theorem State.ready_eq (s : State) :
    s.ready = { s with host := s.ready.host, quit := s.ready.quit, events := s.ready.events, txn := none } := by
  conv_lhs => rw [State.ready, (hostTurn_frame s).1]
  rfl

theorem hostTurn_txn (s : State) : (hostTurn s).txn = s.txn := by rw [(hostTurn_frame s).1]

theorem hostTurn_sched (s : State) : (hostTurn s).sched = s.sched := by rw [(hostTurn_frame s).1]

@[simp] theorem State.ready_cfg (s : State) : s.ready.cfg = s.cfg := by rw [s.ready_eq]
@[simp] theorem State.ready_io (s : State) : s.ready.io = s.io := by rw [s.ready_eq]
@[simp] theorem State.ready_sched (s : State) : s.ready.sched = s.sched := by rw [s.ready_eq]
@[simp] theorem State.ready_fault (s : State) : s.ready.fault = s.fault := by rw [s.ready_eq]
@[simp] theorem State.ready_raster (s : State) : s.ready.raster = s.raster := by rw [s.ready_eq]
@[simp] theorem State.ready_presented (s : State) : s.ready.presented = s.presented := by rw [s.ready_eq]
@[simp] theorem State.ready_mem (s : State) : s.ready.mem = s.mem := by rw [s.ready_eq]
@[simp] theorem State.ready_cpu (s : State) : s.ready.cpu = s.cpu := by rw [s.ready_eq]
@[simp] theorem State.ready_ended (s : State) : s.ready.ended = s.ended := by rw [s.ready_eq]

/-- The host never lowers the quit latch (10_state.md R30). -/
theorem State.ready_quit {s : State} (h : s.quit = true) : s.ready.quit = true := (hostTurn_frame s).2 h

/-- With no word presented the next word is the scheduler's own, which is always an operation. -/
theorem decode_nextWord_of_none {s : State} (h : s.txn = none) :
    decode (hostTurn s).nextWord = .ok (schedInstr s.sched.sstep s.sched.phase) := by
  rw [State.nextWord, hostTurn_txn, h, hostTurn_sched]
  exact decode_schedWord _ _

theorem nextWord_of_some {s : State} {w : Txn} (h : s.txn = some w) : (hostTurn s).nextWord = w := by
  rw [State.nextWord, hostTurn_txn, h]

/-- Where a step goes on, it performed the scheduler's own operation, or the one of the presented word. -/
theorem step_cases {s t : State} (h : step s = .next t) :
    s.running = true ∧
      ((s.txn = none ∧ t = meaning (schedInstr s.sched.sstep s.sched.phase) s.ready) ∨
        ∃ w i, s.txn = some w ∧ decode w = .ok i ∧ t = meaning i s.ready) := by
  obtain ⟨hrun, i, hi, hexec⟩ := step_eq_next s t h
  obtain ⟨-, ht⟩ := exec_eq_next hexec
  refine ⟨hrun, ?_⟩
  cases htxn : s.txn with
  | none =>
    rw [decode_nextWord_of_none htxn] at hi
    injection hi with hi
    subst hi
    exact .inl ⟨rfl, ht⟩
  | some w =>
    rw [nextWord_of_some htxn] at hi
    exact .inr ⟨w, i, rfl, hi, ht⟩

/-- A step of the scheduler performs the operation of `sstep` and `phase`. -/
theorem step_of_txn_none {s t : State} (htxn : s.txn = none) (h : step s = .next t) :
    s.running = true ∧ t = meaning (schedInstr s.sched.sstep s.sched.phase) s.ready := by
  obtain ⟨hrun, ⟨-, ht⟩ | ⟨w, i, hw, -⟩⟩ := step_cases h
  · exact ⟨hrun, ht⟩
  · rw [htxn] at hw
    cases hw

/-- The interface of a word is the format of the operation it selects (30_encoding.md R80). -/
theorem tableFormat_of_decode {w : Txn} {i : Instr} (h : decode w = .ok i) :
    Laws.tableFormat i = Laws.formatOf w := by
  have hrow : Laws.formatOf (encode i) = Laws.tableFormat i := by cases i <;> rfl
  obtain ⟨-, he | ⟨v, rfl, -, he⟩⟩ := encodeOfDecodeIsTheWord w i h
  · rw [← hrow, he]
  · rw [← hrow, he]
    rfl

/-! ### A presented word (log entry 8) -/

theorem State.place_running (s : State) (w : Txn) : (s.place w).running = s.running := by
  unfold State.place
  split
  · split <;> rfl
  all_goals rfl

theorem State.place_host (s : State) (w : Txn) : (s.place w).host = s.host := by
  unfold State.place
  split
  · split <;> rfl
  all_goals rfl

/-- The next word after a word is placed selects what that word selects. -/
theorem State.decode_nextWord_place {s : State} {w : Txn} {i : Instr} (h : decode w = .ok i) :
    decode (s.place w).nextWord = .ok i := by
  cases w with
  | sched w =>
    rw [decode, decodeSched] at h
    cases hst : SStep.ofBits (w.extractLsb' 1 3) with
    | none =>
      rw [hst] at h
      cases h
    | some st =>
      rw [hst] at h
      rw [State.place, hst, ← h]
      exact decode_schedWord _ _
  | _ => exact h

theorem decodeTableWord_eq_some {nbits w : Nat} {i : Instr} (h : decodeTableWord nbits w = some i) :
    ∃ t, tableTxn nbits w = some t ∧ decode t = .ok i := by
  unfold decodeTableWord at h
  split at h
  · cases h
  · rename_i t ht
    split at h
    · rename_i j hj
      cases h
      exact ⟨t, ht, hj⟩
    · cases h

end Sys2Proof.Machine
end

section
/-! The obligations about how a step comes to its operation (43_scheduler.md section 3, 60_exceptions.md section 1), each
settled from the rules above. -/

open Sys2Proof Sys2Proof.Machine

/-- Settles O21: the column check stands before anything is performed. -/
theorem pixelOutsideTheFrameIsRefused : Obligations.PixelOutsideTheFrameIsRefused := by
  intro s col b i hcol
  refine if_neg ?_
  rw [Fixed.val_eq]
  exact Nat.not_lt.mpr hcol

/-- Settles O42: the next word is decoded after the host's turn, and with none presented it is the scheduler's own. -/
theorem stepRunsTheDecodedInstruction : Obligations.StepRunsTheDecodedInstruction :=
  ⟨fun _ _ hs hi => step_of_decode_ok hs hi, fun _ hs htxn => step_of_decode_ok hs (decode_nextWord_of_none htxn)⟩

/-- Settles O43: a scheduler word placed is the scheduler's own next word, any other is presented. -/
theorem placedWordRunsNext : Obligations.PlacedWordRunsNext := by
  intro s nbits w i hs hhost hi
  obtain ⟨t, ht, hdecode⟩ := decodeTableWord_eq_some hi
  have hplace : s.withFetchWord nbits w = s.place t := by rw [State.withFetchWord, State.placeTable, ht]
  have hturn : hostTurn (s.place t) = s.place t := hostTurn_nil _ ((s.place_host t).trans hhost)
  rw [hplace]
  have hstep := step_of_decode_ok ((s.place_running t).trans hs)
    ((congrArg (decode ·.nextWord) hturn).trans (State.decode_nextWord_place hdecode))
  rw [hturn] at hstep
  exact hstep

/-- Settles O44: a step and every operation look at the fault and the end first. -/
theorem faultIsAbsorbing : Obligations.FaultIsAbsorbing :=
  ⟨fun _ _ hf => ⟨step_of_faulted hf, fun _ hi => exec_of_faulted hi hf⟩,
    fun _ hf he => ⟨step_of_ended hf he, fun _ hi => exec_of_ended hi hf he⟩⟩

end

section
/-! SUPPORT. `SLICE` (43_scheduler.md R182): how it can end, what every part of it keeps, and exactly where it stands
after the instructions that meet the budget, or after an access that faults. -/

namespace Sys2Proof.Machine

/-! ### How a slice can end -/

/-- How the rest of a slice, begun at `s`, ends in `t`: at step 2 with the budget met, or with the budget not met and the
scheduler where it stood, whether a fault or the end of the supplied instructions stopped it. -/
def SliceOutcome (s t : State) : Prop :=
  (t.fault = none ∧ s.cfg.budget ≤ t.sched.cyc ∧ t.sched.sstep = .two ∧ t.sched.inSlice = false) ∨
    (t.sched.cyc < s.cfg.budget ∧ t.sched.sstep = s.sched.sstep ∧ t.sched.inSlice = s.sched.inSlice)

theorem sliceEnd_outcome {s : State} (hf : s.fault = none) : SliceOutcome s (sliceEnd s) := by
  rcases sliceEnd_cases s with ⟨hb, e⟩ | ⟨hb, e⟩ <;> rw [e]
  · exact .inl ⟨hf, hb, rfl, rfl⟩
  · exact .inr ⟨hb, rfl, rfl⟩

/-- An instruction that faults ends the slice with the count and the step it had. -/
theorem executeInstr_outcome_of_fault {c : CpuInstr} {s : State} {x : CpuSide} (hb : s.sched.cyc < s.cfg.budget)
    (hf : (executeInstr c (s.setCpu x)).fault ≠ none) : SliceOutcome s (executeInstr c (s.setCpu x)) := by
  obtain ⟨-, -, hsched⟩ := executeInstr_slice c (s.setCpu x)
  have e := hsched hf
  exact .inr (by rw [e]; exact ⟨hb, rfl, rfl⟩)

/-- After an instruction that does not fault, the rest of the slice ends as the slice does. -/
theorem SliceOutcome.of_executeInstr {c : CpuInstr} {s t : State} {x : CpuSide}
    (hf : (executeInstr c (s.setCpu x)).fault = none) (h : SliceOutcome (executeInstr c (s.setCpu x)) t) :
    SliceOutcome s t := by
  obtain ⟨hframe, hsched, -⟩ := executeInstr_slice c (s.setCpu x)
  have e := hsched hf
  rwa [SliceOutcome, e, hframe.cfg] at h

theorem sliceLoop_outcome (l : List CpuInstr) (s : State) (hf : s.fault = none) : SliceOutcome s (sliceLoop l s) := by
  induction l generalizing s with
  | nil => exact sliceEnd_outcome hf
  | cons c rest ih =>
    simp only [sliceLoop, Option.isNone_iff_eq_none]
    split_ifs with hb hc
    · exact SliceOutcome.of_executeInstr hc (ih _ hc)
    · exact executeInstr_outcome_of_fault hb hc
    · exact sliceEnd_outcome hf

theorem sliceFree_outcome (s : State) (hf : s.fault = none) : SliceOutcome s (sliceFree s) := by
  simp only [sliceFree, Option.isNone_iff_eq_none]
  split_ifs with hb hc
  · exact SliceOutcome.of_executeInstr hc (sliceEnd_outcome hc)
  · exact executeInstr_outcome_of_fault hb hc
  · exact sliceEnd_outcome hf

/-- A slice ends at step 2 with the budget met, or stays inside the slice at its step with the budget not met. -/
theorem slice_outcome (s : State) (hf : s.fault = none) :
    ((slice s).fault = none ∧ s.cfg.budget ≤ (slice s).sched.cyc ∧ (slice s).sched.sstep = .two ∧
      (slice s).sched.inSlice = false) ∨
    ((slice s).sched.cyc < s.cfg.budget ∧ (slice s).sched.sstep = s.sched.sstep ∧ (slice s).sched.inSlice = true) := by
  have hbegin : (sliceBegin s).fault = none ∧ (sliceBegin s).cfg = s.cfg ∧
      (sliceBegin s).sched.sstep = s.sched.sstep ∧ (sliceBegin s).sched.inSlice = true := by
    rcases sliceBegin_cases s with ⟨hin, e⟩ | ⟨-, e⟩ <;> rw [e]
    · exact ⟨hf, rfl, rfl, hin⟩
    · exact ⟨hf, rfl, rfl, rfl⟩
  obtain ⟨hbf, hcfg, hstep, hin⟩ := hbegin
  have houtcome : SliceOutcome (sliceBegin s) (slice s) := by
    unfold slice
    split
    · exact sliceFree_outcome _ hbf
    · exact sliceLoop_outcome _ _ hbf
  rwa [SliceOutcome, hcfg, hstep, hin] at houtcome

/-! ### What every part of a slice keeps -/

section
variable (P : State → Prop) (hact : ∀ a t, P t → P (cpuAct a t)) (hsched : ∀ t x, P t → P (t.setSched x))
  (hcpu : ∀ t x, P t → P (t.setCpu x))
include hact hsched

theorem executeInstr_keeps (c : CpuInstr) (s : State) (hs : P s) : P (executeInstr c s) := by
  have h := cpuActs_keeps P hact c.acts s hs
  simp only [executeInstr]
  split_ifs
  · exact hsched _ _ h
  · exact h

include hcpu

theorem sliceLoop_keeps (l : List CpuInstr) (s : State) (hs : P s) : P (sliceLoop l s) := by
  have hend : ∀ t, P t → P (sliceEnd t) := fun t ht => by
    rcases sliceEnd_cases t with ⟨-, e⟩ | ⟨-, e⟩ <;> rw [e]
    · exact hsched _ _ ht
    · exact ht
  induction l generalizing s with
  | nil => exact hend s hs
  | cons c rest ih =>
    have h := executeInstr_keeps P hact hsched c _ (hcpu s { s.cpu with supplied := rest } hs)
    simp only [sliceLoop]
    split_ifs
    · exact ih _ h
    · exact h
    · exact hend s hs

theorem sliceFree_keeps (s : State) (hs : P s) : P (sliceFree s) := by
  have hend : ∀ t, P t → P (sliceEnd t) := sliceLoop_keeps P hact hsched hcpu []
  have h : P (executeFree s) := executeInstr_keeps P hact hsched _ _ (hcpu _ _ hs)
  simp only [sliceFree]
  split_ifs
  · exact hend _ h
  · exact h
  · exact hend s hs

/-- A property that every access of the CPU keeps, and that reads neither the scheduler nor the executor's side, holds
after a slice. -/
theorem slice_keeps (s : State) (hs : P s) : P (slice s) := by
  have hbegin : P (sliceBegin s) := by
    rcases sliceBegin_cases s with ⟨-, e⟩ | ⟨-, e⟩ <;> rw [e]
    · exact hs
    · exact hsched _ _ hs
  unfold slice
  split
  · exact sliceFree_keeps P hact hsched hcpu _ hbegin
  · exact sliceLoop_keeps P hact hsched hcpu _ _ hbegin

end

theorem slice_memWf (s : State) (h : Memory.wf addrSpace s.mem) : Memory.wf addrSpace (slice s).mem :=
  slice_keeps (fun t => Memory.wf addrSpace t.mem) cpuAct_memWf (fun _ _ => id) (fun _ _ => id) s h

/-- A fault that a slice begun without one ends in is a port fault. -/
theorem slice_fault_code (s : State) (hs : s.fault = none) (r : FaultRecord) (h : (slice s).fault = some r) :
    r.code = 1 ∨ r.code = 2 := by
  refine slice_keeps (fun t => ∀ r, t.fault = some r → r.code = 1 ∨ r.code = 2) (fun a t ht r hr => ?_)
    (fun _ _ => id) (fun _ _ => id) s (fun r hr => by rw [hs] at hr; cases hr) r h
  cases a with
  | read p =>
    rcases portRead_cases p t with ⟨-, b, e⟩ | ⟨-, e⟩ <;> rw [cpuAct, e] at hr
    · exact ht r hr
    · cases hr; exact .inl rfl
  | write p v =>
    rcases portWrite_cases p v t with ⟨-, c, -, e⟩ | ⟨-, e⟩ <;> rw [cpuAct, e] at hr
    · exact ht r hr
    · cases hr; exact .inr rfl
  | store x b => exact ht r hr

/-! ### The accesses of the CPU, one instruction after another -/

/-- The accesses of a list of instructions, made one after another. -/
def runInstrs (l : List CpuInstr) (s : State) : State := l.foldl (fun x c => cpuActs c.acts x) s

theorem runInstrs_frame (l : List CpuInstr) (s : State) : CpuFrame s (runInstrs l s) := by
  induction l generalizing s with
  | nil => exact .refl s
  | cons c rest ih => exact (cpuActs_frame c.acts s).trans (ih _)

theorem runInstrs_fault (l : List CpuInstr) (s : State) (hok : ∀ c ∈ l, c.ok = true) (hf : s.fault = none) :
    (runInstrs l s).fault = none := by
  induction l generalizing s with
  | nil => exact hf
  | cons c rest ih =>
    obtain ⟨hc, hrest⟩ := List.forall_mem_cons.mp hok
    exact ih _ hrest ((cpuActs_fault c.acts s hf).mpr hc)

/-- Accesses that fault nowhere are followed by the others. -/
theorem cpuActs_append (l m : List CpuAct) (s : State) (hf : s.fault = none) (hl : l.all CpuAct.ok = true) :
    cpuActs (l ++ m) s = cpuActs m (cpuActs l s) := by
  induction l generalizing s with
  | nil => rfl
  | cons a rest ih =>
    rw [List.all_cons, Bool.and_eq_true] at hl
    have ha := (cpuAct_fault a s hf).mpr hl.1
    simp only [List.cons_append, cpuActs, ha, Option.isNone_none, if_true]
    exact ih _ ha hl.2

/-- An access of an unimplemented port raises that port's fault and does nothing else (40_port_io.md R103, R109). -/
theorem cpuAct_of_not_ok {a : CpuAct} (ha : a.ok = false) (s : State) :
    ∃ r, cpuAct a s = s.raise r ∧ (∀ p, a = .read p → r = .unknownPortRead p) ∧
      ∀ p v, a = .write p v → r = .unknownPortWrite p := by
  cases a with
  | read p =>
    rcases portRead_cases p s with ⟨hp, -⟩ | ⟨-, e⟩
    · cases ha.symm.trans hp
    · refine ⟨_, e, fun q hq => ?_, fun q v hq => ?_⟩ <;> cases hq
      rfl
  | write p v =>
    rcases portWrite_cases p v s with ⟨hp, -⟩ | ⟨-, e⟩
    · cases ha.symm.trans hp
    · refine ⟨_, e, fun q hq => ?_, fun q w hq => ?_⟩ <;> cases hq
      rfl
  | store x b => cases ha

/-- The accesses of an instruction up to the one that faults; none after it is made. -/
theorem cpuActs_of_not_ok {earlier later : List CpuAct} {bad : CpuAct} {s : State} (hf : s.fault = none)
    (hearlier : earlier.all CpuAct.ok = true) (hbad : bad.ok = false) :
    cpuActs (earlier ++ bad :: later) s = cpuAct bad (cpuActs earlier s) := by
  obtain ⟨r, hr, -⟩ := cpuAct_of_not_ok hbad (cpuActs earlier s)
  rw [cpuActs_append _ _ _ hf hearlier]
  simp only [cpuActs, hr, State.raise_fault, Option.isNone_some, Bool.false_eq_true, if_false]

/-! ### The scheduler's count and the supplied instructions beside the accesses -/

/-- The state with another scheduler record and other supplied instructions, which no access of the CPU reads. -/
def State.retake (s : State) (x : Scheduler) (l : List CpuInstr) : State :=
  (s.setSched x).setCpu { s.cpu with supplied := l }

section
variable (s : State) (x : Scheduler) (l : List CpuInstr)

@[simp] theorem State.retake_fault : (s.retake x l).fault = s.fault := rfl

theorem cpuAct_retake (a : CpuAct) : cpuAct a (s.retake x l) = (cpuAct a s).retake x l := by
  cases a with
  | read p => simp only [cpuAct, portRead]; split_ifs <;> rfl
  | write p v => simp only [cpuAct, portWrite]; split_ifs <;> rfl
  | store y b => rfl

theorem cpuActs_retake (m : List CpuAct) : cpuActs m (s.retake x l) = (cpuActs m s).retake x l := by
  induction m generalizing s with
  | nil => rfl
  | cons a rest ih =>
    simp only [cpuActs, cpuAct_retake, State.retake_fault]
    split_ifs
    · exact ih _
    · rfl

/-- An instruction that faults nowhere makes its accesses and adds its cost. -/
theorem executeInstr_retake (c : CpuInstr) (hf : s.fault = none) (hc : c.ok = true) :
    executeInstr c (s.retake x l) = (cpuActs c.acts s).retake { x with cyc := x.cyc + c.cost } l := by
  have hfault := (cpuActs_fault c.acts s hf).mpr hc
  simp only [executeInstr, cpuActs_retake, State.retake_fault, hfault, Option.isNone_none, if_true]
  rfl

end

@[simp] theorem totalCost_nil : totalCost [] = 0 := rfl

@[simp] theorem totalCost_cons (c : CpuInstr) (l : List CpuInstr) : totalCost (c :: l) = c.cost + totalCost l := rfl

theorem totalCost_take_le (l : List CpuInstr) (m : Nat) : totalCost (l.take m) ≤ totalCost l := by
  induction l generalizing m with
  | nil => simp
  | cons c rest ih =>
    cases m with
    | zero => simp
    | succ m => simpa using ih m

/-- The loop executes instructions one after another as long as the budget is not met before any of them. -/
theorem sliceLoop_append (pre rest : List CpuInstr) (s : State) (x : Scheduler) (hf : s.fault = none)
    (hok : ∀ c ∈ pre, c.ok = true) (hbefore : ∀ m, m < pre.length → x.cyc + totalCost (pre.take m) < s.cfg.budget) :
    sliceLoop (pre ++ rest) (s.retake x (pre ++ rest)) =
      sliceLoop rest ((runInstrs pre s).retake { x with cyc := x.cyc + totalCost pre } rest) := by
  induction pre generalizing s x with
  | nil => rfl
  | cons c pre ih =>
    obtain ⟨hc, hpre⟩ := List.forall_mem_cons.mp hok
    have hfault := (cpuActs_fault c.acts s hf).mpr hc
    have hbudget : x.cyc < s.cfg.budget := hbefore 0 (Nat.succ_pos _)
    have hnext : ∀ m, m < pre.length →
        x.cyc + c.cost + totalCost (pre.take m) < (cpuActs c.acts s).cfg.budget := fun m hm => by
      have h := hbefore (m + 1) (Nat.succ_lt_succ hm)
      rw [List.take_succ_cons, totalCost_cons] at h
      rw [(cpuActs_frame c.acts s).cfg]
      omega
    have hexec := executeInstr_retake s x (pre ++ rest) c hf hc
    calc sliceLoop (c :: pre ++ rest) (s.retake x (c :: pre ++ rest))
        = (let t := executeInstr c (s.retake x (pre ++ rest))
           if t.fault.isNone then sliceLoop (pre ++ rest) t else t) := if_pos hbudget
      _ = sliceLoop (pre ++ rest) ((cpuActs c.acts s).retake { x with cyc := x.cyc + c.cost } (pre ++ rest)) := by
          simp only [hexec, State.retake_fault, hfault, Option.isNone_none, if_true]
      _ = _ := by
          rw [ih _ _ hfault hpre hnext, Nat.add_assoc]
          rfl

/-- Where the budget is met the loop executes nothing more. -/
theorem sliceLoop_of_met (l : List CpuInstr) (s : State) (h : s.cfg.budget ≤ s.sched.cyc) :
    sliceLoop l s = s.setSched { s.sched with sstep := .two, inSlice := false } := by
  have hend : sliceEnd s = s.setSched { s.sched with sstep := .two, inSlice := false } := if_pos h
  cases l with
  | nil => exact hend
  | cons c rest => exact (if_neg (Nat.not_lt.mpr h)).trans hend

/-- A slice begun with instructions supplied is the loop over them, from a count of 0. -/
theorem slice_of_begin {s : State} (hin : s.sched.inSlice = false) {l : List CpuInstr} (hl : s.cpu.supplied = l)
    (hne : l ≠ []) :
    slice s = sliceLoop l (s.retake { s.sched with cyc := 0, inSlice := true } l) := by
  have hbegin : sliceBegin s = s.retake { s.sched with cyc := 0, inSlice := true } l := by
    rcases sliceBegin_cases s with ⟨h, -⟩ | ⟨-, e⟩
    · rw [hin] at h
      cases h
    · rw [e, ← hl]
      rfl
  obtain ⟨c, rest, rfl⟩ := List.exists_cons_of_ne_nil hne
  rw [slice, hl, ← hbegin]

/-- A slice over instructions the last of which meets the budget: their accesses, their cost, and step 2. -/
theorem slice_of_met {s : State} {pre rest : List CpuInstr} (hf : s.fault = none) (hin : s.sched.inSlice = false)
    (hsupplied : s.cpu.supplied = pre ++ rest) (hne : pre ≠ []) (hok : ∀ c ∈ pre, c.ok = true)
    (hbefore : ∀ m, m < pre.length → totalCost (pre.take m) < s.cfg.budget) (hmet : s.cfg.budget ≤ totalCost pre) :
    slice s = (runInstrs pre s).retake
      { s.sched with cyc := totalCost pre, sstep := .two, inSlice := false } rest := by
  rw [slice_of_begin hin hsupplied (by simp [hne]),
    sliceLoop_append pre rest s _ hf hok (fun m hm => by simpa using hbefore m hm), sliceLoop_of_met]
  · simp only [Nat.zero_add]
    rfl
  · simpa [State.retake, (runInstrs_frame pre s).cfg] using hmet

/-- A slice over instructions that do not meet the budget and then one that faults: the accesses before the faulting one,
the cost before its instruction, and the step and the later instructions as they were. -/
theorem slice_of_fault {s : State} {pre rest : List CpuInstr} {earlier later : List CpuAct} {bad : CpuAct} {cost : Nat}
    {r : FaultRecord} (hf : s.fault = none) (hin : s.sched.inSlice = false)
    (hsupplied : s.cpu.supplied = pre ++ ⟨earlier ++ bad :: later, cost⟩ :: rest) (hok : ∀ c ∈ pre, c.ok = true)
    (hcost : totalCost pre < s.cfg.budget) (hearlier : earlier.all CpuAct.ok = true) (hbad : bad.ok = false)
    (hr : cpuAct bad (cpuActs earlier (runInstrs pre s)) = (cpuActs earlier (runInstrs pre s)).raise r) :
    slice s = ((cpuActs earlier (runInstrs pre s)).raise r).retake
      { s.sched with cyc := totalCost pre, inSlice := true } rest := by
  have hbudget : totalCost pre < (runInstrs pre s).cfg.budget := by rwa [(runInstrs_frame pre s).cfg]
  have hacts := cpuActs_of_not_ok (later := later) (runInstrs_fault pre s hok hf) hearlier hbad
  rw [hr] at hacts
  rw [slice_of_begin hin hsupplied (by simp), sliceLoop_append pre _ s _ hf hok]
  · simp only [Nat.zero_add]
    refine (if_pos hbudget).trans ?_
    have hexec : executeInstr ⟨earlier ++ bad :: later, cost⟩
        ((runInstrs pre s).retake { s.sched with cyc := totalCost pre, inSlice := true } rest) =
        ((cpuActs earlier (runInstrs pre s)).raise r).retake
          { s.sched with cyc := totalCost pre, inSlice := true } rest := by
      simp only [executeInstr, cpuActs_retake, hacts, State.retake_fault, State.raise_fault, Option.isNone_some,
        Bool.false_eq_true, if_false]
    exact (congrArg (fun t => if t.fault.isNone then sliceLoop rest t else t) hexec).trans rfl
  · intro m _
    have := totalCost_take_le pre m
    simp only [Nat.zero_add]
    omega

/-- Instructions whose costs reach a positive budget have a shortest run that does. -/
theorem exists_shortest_run (l : List CpuInstr) (b : Nat) (hb : 1 ≤ b) (hl : b ≤ totalCost l) :
    ∃ n, 1 ≤ n ∧ n ≤ l.length ∧ b ≤ totalCost (l.take n) ∧ ∀ m, m < n → totalCost (l.take m) < b := by
  have hreach : ∃ n, b ≤ totalCost (l.take n) := ⟨l.length, by rwa [List.take_length]⟩
  refine ⟨Nat.find hreach, ?_, ?_, Nat.find_spec hreach, fun m hm => Nat.not_le.mp (Nat.find_min hreach hm)⟩
  · have h := Nat.find_spec hreach
    by_contra h0
    rw [show Nat.find hreach = 0 by omega] at h
    simp at h
    omega
  · exact Nat.find_min' hreach (by rwa [List.take_length])

/-- A slice over supplied instructions that fault nowhere and reach the budget executes the shortest run that does. -/
theorem slice_of_reached {s : State} (hf : s.fault = none) (hin : s.sched.inSlice = false) (hb : 1 ≤ s.cfg.budget)
    (hok : ∀ c ∈ s.cpu.supplied, c.ok = true) (hreach : s.cfg.budget ≤ totalCost s.cpu.supplied) :
    ∃ n, 1 ≤ n ∧ n ≤ s.cpu.supplied.length ∧ s.cfg.budget ≤ totalCost (s.cpu.supplied.take n) ∧
      totalCost (s.cpu.supplied.take (n - 1)) < s.cfg.budget ∧
      (runInstrs (s.cpu.supplied.take n) s).fault = none ∧
      slice s = (runInstrs (s.cpu.supplied.take n) s).retake
        { s.sched with cyc := totalCost (s.cpu.supplied.take n), sstep := .two, inSlice := false }
        (s.cpu.supplied.drop n) := by
  obtain ⟨n, h1, hlen, hmet, hbefore⟩ := exists_shortest_run _ _ hb hreach
  have hok' : ∀ c ∈ s.cpu.supplied.take n, c.ok = true := fun c hc => hok c (List.mem_of_mem_take hc)
  have hlength : (s.cpu.supplied.take n).length = n := List.length_take_of_le hlen
  refine ⟨n, h1, hlen, hmet, hbefore _ (by omega), runInstrs_fault _ s hok' hf,
    slice_of_met hf hin (List.take_append_drop n _).symm (fun h => ?_) hok' (fun m hm => ?_) hmet⟩
  · rw [h] at hlength
    simp at hlength
    omega
  · rw [hlength] at hm
    rw [List.take_take, Nat.min_eq_left hm.le]
    exact hbefore m hm

end Sys2Proof.Machine
end

section
/-! SUPPORT. The invariant of a run: the updates that keep it, the operations outside the scheduler's loop, and the six
steps of the loop (10_state.md section 3, 42_video_decode.md R167 (5), 43_scheduler.md section 2). -/

namespace Sys2Proof

/-- Clearing bits sets no unassigned bit (41_input_events.md R131). -/
theorem Config.and_and_not_assigned (c : Config) (x m : InWord) (hx : x &&& ~~~c.assigned = 0#16) :
    x &&& m &&& ~~~c.assigned = 0#16 := by
  rw [BitVec.and_assoc, BitVec.and_comm m, ← BitVec.and_assoc, hx, BitVec.zero_and]

/-- The mask of the assigned bits reads the switch table alone (10_state.md R24). -/
theorem Config.assigned_congr {c d : Config} (h : c.swbit = d.swbit) : c.assigned = d.assigned := by
  have hmask : ∀ a, c.switchMask a = d.switchMask a := fun a => by
    rw [Config.switchMask, Config.switchMask, Config.bit, Config.bit, h]
  simp only [Config.assigned, hmask]

namespace Machine

/-! ### Updates that keep the invariant -/

section
variable {s : State} (h : s.Inv)
include h

theorem State.Inv.setIo {x : Controller} (hx : x.inreg &&& ~~~s.cfg.assigned = 0#16) : (s.setIo x).Inv :=
  { h with inregOk := hx }

/-- The scheduler may stand anywhere outside a slice. -/
theorem State.Inv.setSched {x : Scheduler} (hx : x.inSlice = true → x.sstep = .one ∧ x.cyc < s.cfg.budget) :
    (s.setSched x).Inv := { h with sliceOk := hx }

theorem State.Inv.goto (hin : s.sched.inSlice = false) (st : SStep) : (s.goto st).Inv :=
  h.setSched fun hin' => by cases hin.symm.trans hin'

theorem State.Inv.setEvents (x : List Event) : (s.setEvents x).Inv := { h with }

theorem State.Inv.setRaster {x : Memory} (hx : rasterForm s.cfg x) : (s.setRaster x).Inv := { h with rasterOk := hx }

theorem State.Inv.receive (b : Byte) : (s.receive b).Inv := { h with }

theorem State.Inv.raise (r : FaultRecord) : (s.raise r).Inv := { h with }

theorem State.Inv.keySet (a : Action) : (keySet a s).Inv :=
  h.setIo (s.cfg.or_switchMask_and_not_assigned a _ h.inregOk)

theorem State.Inv.keyClr (a : Action) : (keyClr a s).Inv := h.setIo (s.cfg.and_and_not_assigned _ _ h.inregOk)

theorem State.Inv.pressAction (a : Action) : (pressAction a s).Inv := by
  unfold Machine.pressAction
  split_ifs
  · exact h.keyClr a
  · exact h.keySet a

theorem State.Inv.releaseAction (a : Action) : (releaseAction a s).Inv := by
  unfold Machine.releaseAction
  split_ifs
  · exact h.keySet a
  · exact h.keyClr a

theorem State.Inv.applyEvent (e : Event) : (applyEvent s e).Inv := by
  unfold Machine.applyEvent
  split
  · exact h
  · split
    · exact h.pressAction _
    · exact h.releaseAction _

theorem State.Inv.clearRaster : (clearRaster s).Inv := by
  rw [clearRaster_eq]
  exact h.setRaster (rasterForm_nil _)

theorem State.Inv.presentRaster : (presentRaster s).Inv :=
  { h with presentedOk := fun m hm => by cases hm; exact h.rasterOk }

theorem State.Inv.decodePixel (col b i : Nat) : (decodePixel col b i s).Inv := by
  rcases decodePixel_cases col b i s with ⟨-, e⟩ | ⟨-, e⟩ <;> rw [e]
  · exact h
  · rcases rasterSet_cases col (destColumn s.cfg b i) s with ⟨hr, hc, g⟩ | ⟨-, g⟩ <;> rw [g]
    · exact h.setRaster (rasterForm_write s.cfg s.raster h.rasterOk hr hc)
    · exact h.raise _

theorem State.Inv.decodeAll : (decodeAll s).Inv :=
  decodeAll_keeps State.Inv (fun col b i _ _ _ _ _ ht => ht.decodePixel col b i) s h

theorem State.Inv.deliver (v : Nat) : (deliver v s).Inv := by
  rw [deliver_frame]
  exact { h with memWf := deliver_memWf v s h.memWf }

/-- A slice keeps the invariant, at whatever place it stops (43_scheduler.md R182). -/
theorem State.Inv.slice (hf : s.fault = none) (hone : s.sched.sstep = .one) : (slice s).Inv where
  cfgWf := (slice_frame s).cfg ▸ h.cfgWf
  memWf := slice_memWf s h.memWf
  rasterOk := by rw [(slice_frame s).cfg, (slice_frame s).raster]; exact h.rasterOk
  presentedOk := by rw [(slice_frame s).cfg, (slice_frame s).presented]; exact h.presentedOk
  inregOk := by rw [(slice_frame s).cfg, (slice_frame s).inreg]; exact h.inregOk
  sliceOk := fun hin => by
    rw [(slice_frame s).cfg]
    rcases slice_outcome s hf with ⟨-, -, -, hout⟩ | ⟨hcyc, hstep, -⟩
    · cases hin.symm.trans hout
    · exact ⟨hstep.trans hone, hcyc⟩
  txnOk := (slice_frame s).txn ▸ h.txnOk
  endedOk := by rw [(slice_frame s).ended, (slice_frame s).quit]; exact h.endedOk

/-- Away from step 1 no slice is in progress. -/
theorem State.Inv.not_inSlice {st : SStep} (hst : s.sched.sstep = st) (hne : st ≠ .one) : s.sched.inSlice = false := by
  by_contra hin
  exact hne (hst.symm.trans (h.sliceOk (eq_true_of_ne_false hin)).1)

/-- What happens before a step's operation keeps the invariant. -/
theorem State.Inv.ready : s.ready.Inv := by
  rw [s.ready_eq]
  exact { h with txnOk := fun _ hw => (nomatch hw), endedOk := fun he => State.ready_quit (h.endedOk he) }

end

theorem State.Inv.drainEvents {s : State} (h : s.Inv) (hin : s.sched.inSlice = false) : (drainEvents s).Inv := by
  have hfold : (s.events.foldl Machine.applyEvent s).Inv :=
    List.foldlRecOn s.events Machine.applyEvent h fun t ht e _ => ht.applyEvent e
  have hsched : (s.events.foldl Machine.applyEvent s).sched = s.sched := by rw [applyEvents_frame]; rfl
  exact (hfold.setEvents []).goto ((congrArg Scheduler.inSlice hsched).trans hin) .six

theorem State.Inv.drawFrame {s : State} (h : s.Inv) (hin : s.sched.inSlice = false) : (drawFrame s).Inv := by
  have hpass := h.clearRaster.decodeAll
  have hsched : (Machine.decodeAll (Machine.clearRaster s)).sched = s.sched := by rw [(decodeAll_frame _).eq]; rfl
  simp only [Machine.drawFrame]
  split_ifs
  · exact hpass.presentRaster.goto ((congrArg Scheduler.inSlice hsched).trans hin) .five
  · exact hpass

theorem State.Inv.quitCheck {s : State} (h : s.Inv) (hin : s.sched.inSlice = false) : (quitCheck s).Inv := by
  unfold Machine.quitCheck
  split_ifs with hq
  · exact { h with endedOk := fun _ => hq }
  · exact h.goto hin .one

/-- The operations of the other five interfaces keep the invariant wherever they are performed. -/
theorem State.Inv.meaning_of_not_sched {s : State} (h : s.Inv) {i : Instr} (hi : Laws.tableFormat i ≠ .s) :
    (meaning i s).Inv := by
  cases i with
  | in1 => exact h.receive _
  | in2 => exact h.receive _
  | in3 => exact h.receive _
  | inUnimpl p => exact h.raise _
  | out2 v => exact h.setIo h.inregOk
  | out3 v => exact h
  | out4 v => exact h.setIo h.inregOk
  | out5 v => exact h
  | out6 v => exact h
  | outUnimpl p v => exact h.raise _
  | keySet a => exact h.keySet a
  | keyClr a => exact h.keyClr a
  | pressCoin => exact h.pressAction .coin
  | releaseCoin => exact h.releaseAction .coin
  | pressP1Start => exact h.pressAction .p1Start
  | releaseP1Start => exact h.releaseAction .p1Start
  | pressP2Start => exact h.pressAction .p2Start
  | releaseP2Start => exact h.releaseAction .p2Start
  | pressP1Left => exact h.pressAction .p1Left
  | releaseP1Left => exact h.releaseAction .p1Left
  | pressP1Right => exact h.pressAction .p1Right
  | releaseP1Right => exact h.releaseAction .p1Right
  | pressP1Fire => exact h.pressAction .p1Fire
  | releaseP1Fire => exact h.releaseAction .p1Fire
  | pressP2Left => exact h.pressAction .p2Left
  | releaseP2Left => exact h.releaseAction .p2Left
  | pressP2Right => exact h.pressAction .p2Right
  | releaseP2Right => exact h.releaseAction .p2Right
  | pressP2Fire => exact h.pressAction .p2Fire
  | releaseP2Fire => exact h.releaseAction .p2Fire
  | eventNone k a => exact h
  | pixel col b k => exact h.decodePixel _ _ _
  | clear => exact h.clearRaster
  | decodePass => exact h.decodeAll
  | present => exact h.presentRaster
  | _ => exact absurd rfl hi

/-- The scheduler's own operation keeps the invariant: where it is not `SLICE`, no slice is in progress. -/
theorem State.Inv.meaning_schedInstr {s : State} (h : s.Inv) (hf : s.fault = none) :
    (meaning (schedInstr s.sched.sstep s.sched.phase) s).Inv := by
  cases hst : s.sched.sstep with
  | one => exact h.slice hf hst
  | two =>
    have hin : ∀ v, (Machine.deliver v s).sched.inSlice = false := fun v => by
      rw [deliver_frame]
      exact h.not_inSlice hst (by decide)
    cases s.sched.phase with
    | mid => exact (h.deliver _).goto (hin _) .three
    | fin => exact (h.deliver _).goto (hin _) .three
  | three => exact h.setSched fun hin => by cases (h.not_inSlice hst (by decide)).symm.trans hin
  | four =>
    have hin := h.not_inSlice hst (by decide)
    cases s.sched.phase with
    | mid => exact h.drawFrame hin
    | fin => exact h.goto hin .five
  | five => exact h.drainEvents (h.not_inSlice hst (by decide))
  | six => exact h.quitCheck (h.not_inSlice hst (by decide))

/-- Reset leaves the coin bit alone set, which is an assigned one, and nothing drawn or stored. -/
theorem State.Inv.resetWith {c : Config} (hc : c.wf) : (State.resetWith c).Inv where
  cfgWf := hc
  memWf := reset_memWf
  rasterOk := rasterForm_nil c
  presentedOk := fun _ h => by cases h
  inregOk := c.switchMask_and_not_assigned .coin
  sliceOk := fun h => by cases h
  txnOk := fun _ h => by cases h
  endedOk := fun h => by cases h

end Machine

end Sys2Proof
end

section
/-! The obligations about the invariant, each settled from the rules above. -/

open Sys2Proof Sys2Proof.Machine

/-- Settles O53: a step performs the scheduler's own operation, or one of another interface, since no scheduler word is
presented. -/
theorem everyStepKeepsTheInvariant : Obligations.EveryStepKeepsTheInvariant := by
  intro s t hs hstep
  obtain ⟨hrun, ⟨-, rfl⟩ | ⟨w, i, hw, hi, rfl⟩⟩ := step_cases hstep
  · have hf : s.ready.fault = none := s.ready_fault.trans ((State.running_iff s).mp hrun).1
    have h := hs.ready.meaning_schedInstr hf
    rwa [s.ready_sched] at h
  · refine hs.ready.meaning_of_not_sched fun hformat => ?_
    rw [tableFormat_of_decode hi] at hformat
    cases w with
    | sched w => exact hs.txnOk w hw
    | _ => cases hformat

/-- Settles O52: the reset state of any legal configuration, and the default is legal. -/
theorem invariantHoldsAtReset : Obligations.InvariantHoldsAtReset :=
  ⟨fun _ hc => .resetWith hc, .resetWith (c := Config.default) (by decide)⟩

/-- Settles O54: `0x8F88` is the complement of the default table's assigned bits, and a half of a zero word is zero. -/
theorem unassignedBitsReadZero : Obligations.UnassignedBitsReadZero := by
  intro s hs hswbit
  have hmask : ~~~s.cfg.assigned = 0x8F88#16 := by
    rw [Config.assigned_congr hswbit]
    decide
  have hword := hs.inregOk
  rw [hmask] at hword
  refine ⟨hword, ?_, ?_⟩
  · exact BitVec.extractLsb'_and.symm.trans (congrArg (BitVec.extractLsb' 0 8) hword)
  · exact BitVec.extractLsb'_and.symm.trans (congrArg (BitVec.extractLsb' 8 8) hword)

end

section
/-! SUPPORT. The shift window bit by bit (40_port_io.md R102), the port map on the CPU's side and on the bus
(40_port_io.md section 4), and what a mapped event writes (41_input_events.md R132 to R151). -/

namespace Sys2Proof

/-! ### The one bit an event writes -/

/-- `x` with the bit of action `a` at the value `v` (41_input_events.md R130, R131). -/
def Config.writeSwitch (c : Config) (a : Action) (v : Bool) (x : InWord) : InWord :=
  if v then x ||| c.switchMask a else x &&& ~~~c.switchMask a

theorem Config.getLsbD_writeSwitch (c : Config) (a : Action) (v : Bool) (x : InWord) (j : Nat) :
    (c.writeSwitch a v x).getLsbD j = if j = c.bit a then v else x.getLsbD j := by
  by_cases hj : j = c.bit a
  · subst hj
    cases v <;> simp [Config.writeSwitch]
  · by_cases h16 : j < 16
    · have hmask : (c.switchMask a).getLsbD j = false := by simp [Ne.symm hj]
      rw [if_neg hj, Config.writeSwitch]
      split_ifs
      · rw [BitVec.getLsbD_or, hmask, Bool.or_false]
      · rw [BitVec.getLsbD_and, BitVec.getLsbD_not, hmask, decide_eq_true h16, Bool.not_false, Bool.and_true,
          Bool.and_true]
    · rw [if_neg hj, BitVec.getLsbD_of_ge _ _ (Nat.not_lt.mp h16), BitVec.getLsbD_of_ge _ _ (Nat.not_lt.mp h16)]

/-- Under a legal `SWBIT` writing the bit of `a` decides the bit of `a` and leaves that of every other action. -/
theorem Config.getLsbD_writeSwitch_bit {c : Config} (hc : c.wf) (a b : Action) (v : Bool) (x : InWord) :
    (c.writeSwitch a v x).getLsbD (c.bit b) = if b = a then v else x.getLsbD (c.bit b) := by
  rw [c.getLsbD_writeSwitch]
  exact if_congr (c.bit_injective hc).eq_iff rfl rfl

namespace Machine

/-- A press or a release writes the bit of its action by its polarity, and nothing else (10_state.md R24). -/
theorem meaning_eventInstr (k : EventKind) (a : Action) (s : State) :
    meaning (eventInstr k a) s =
      s.setIo { s.io with inreg := s.cfg.writeSwitch a (writtenBit k a) s.io.inreg } := by
  cases k <;> cases a <;> rfl

theorem applyEvent_of_none {s : State} {e : Event} (h : s.cfg.actionOf e.key = none) : applyEvent s e = s := by
  simp [applyEvent, h]

/-- An event on a mapped key is the press or the release of its action (41_input_events.md R151). -/
theorem applyEvent_of_some {s : State} {e : Event} {a : Action} (h : s.cfg.actionOf e.key = some a) :
    applyEvent s e = meaning (eventInstr e.kind a) s := by
  have hpress : ∀ a, meaning (pressInstr a) = pressAction a := fun a => by cases a <;> rfl
  have hrelease : ∀ a, meaning (releaseInstr a) = releaseAction a := fun a => by cases a <;> rfl
  cases hk : e.kind with
  | down => simp [applyEvent, h, hk, eventInstr, hpress]
  | up => simp [applyEvent, h, hk, eventInstr, hrelease]

/-- One event decides the bit of the action its key is mapped to. -/
theorem applyEvent_bit {s : State} (hc : s.cfg.wf) (e : Event) (a : Action) :
    (applyEvent s e).io.inreg.getLsbD (s.cfg.bit a) =
      if s.cfg.actionOf e.key = some a then writtenBit e.kind a else s.io.inreg.getLsbD (s.cfg.bit a) := by
  cases hkey : s.cfg.actionOf e.key with
  | none => rw [applyEvent_of_none hkey, if_neg (by simp)]
  | some b =>
    rw [applyEvent_of_some hkey, meaning_eventInstr, State.setIo_io, Config.getLsbD_writeSwitch_bit hc]
    by_cases hab : a = b
    · subst hab
      simp
    · simp [hab, Ne.symm hab]

/-- No event writes a bit that is no action's. -/
theorem applyEvent_other_bit (s : State) (e : Event) {j : Nat} (hj : ∀ a, j ≠ s.cfg.bit a) :
    (applyEvent s e).io.inreg.getLsbD j = s.io.inreg.getLsbD j := by
  cases hkey : s.cfg.actionOf e.key with
  | none => rw [applyEvent_of_none hkey]
  | some b => rw [applyEvent_of_some hkey, meaning_eventInstr, State.setIo_io, s.cfg.getLsbD_writeSwitch, if_neg (hj b)]

/-- The last event of a queue decides the actions its key is mapped to, the ones before it the others. -/
theorem lastKind_append_singleton (c : Config) (l : List Event) (e : Event) (a : Action) :
    lastKind c (l ++ [e]) a = if c.actionOf e.key = some a then some e.kind else lastKind c l a := by
  by_cases h : c.actionOf e.key = some a <;> simp [lastKind, List.filter_append, h]

theorem applyEvents_cfg (l : List Event) (s : State) : (l.foldl applyEvent s).cfg = s.cfg := by
  rw [applyEvents_frame]
  rfl

/-- After a queue of events each action's bit is what its last event wrote (43_scheduler.md R189). -/
theorem applyEvents_bit {s : State} (hc : s.cfg.wf) (l : List Event) (a : Action) :
    (l.foldl applyEvent s).io.inreg.getLsbD (s.cfg.bit a) =
      match lastKind s.cfg l a with
      | none => s.io.inreg.getLsbD (s.cfg.bit a)
      | some k => writtenBit k a := by
  induction l using List.reverseRecOn with
  | nil => rfl
  | append_singleton l e ih =>
    have hcfg := applyEvents_cfg l s
    rw [← hcfg] at hc
    have hbit := applyEvent_bit hc e a
    rw [hcfg] at hbit
    rw [List.foldl_append, List.foldl_cons, List.foldl_nil, hbit, lastKind_append_singleton]
    split_ifs
    · rfl
    · exact ih

theorem applyEvents_other_bit (s : State) (l : List Event) {j : Nat} (hj : ∀ a, j ≠ s.cfg.bit a) :
    (l.foldl applyEvent s).io.inreg.getLsbD j = s.io.inreg.getLsbD j := by
  induction l using List.reverseRecOn with
  | nil => rfl
  | append_singleton l e ih =>
    rw [List.foldl_append, List.foldl_cons, List.foldl_nil, applyEvent_other_bit _ e, ih]
    rwa [applyEvents_cfg]

/-- Draining writes the Input Register, empties the queue and goes to step 6 (43_scheduler.md R189). -/
theorem drainEvents_eq (s : State) :
    drainEvents s = ((s.setIo { s.io with inreg := (s.events.foldl applyEvent s).io.inreg }).setEvents []).goto .six := by
  rw [drainEvents]
  conv_lhs => rw [applyEvents_frame]

/-! ### Ports -/

/-- The window's bits below the offset come from `low`, the others from `high` (40_port_io.md R102). -/
theorem Controller.getLsbD_window (c : Controller) {i : Nat} (hi : i < 8) :
    c.window.getLsbD i =
      if i < c.offset.toNat then c.low.getLsbD (8 - c.offset.toNat + i) else c.high.getLsbD (i - c.offset.toNat) := by
  have ho : c.offset.toNat < 8 := c.offset.isLt
  have hbelow : 8 - c.offset.toNat + i < 8 ↔ i < c.offset.toNat := by omega
  have habove : 8 - c.offset.toNat + i - 8 = i - c.offset.toNat := by omega
  rw [c.window_eq_append, BitVec.getLsbD_extractLsb', BitVec.getLsbD_ushiftRight, BitVec.getLsbD_append]
  simp only [hi, decide_true, Bool.true_and, Nat.zero_add, hbelow, habove]

/-- The two bytes shifted apart and or-ed (40_port_io.md section 3). -/
theorem Controller.window_eq_or (c : Controller) :
    c.window = (c.high <<< c.offset.toNat) ||| (c.low >>> (8 - c.offset.toNat)) := by
  apply BitVec.eq_of_getLsbD_eq
  intro i hi
  rw [c.getLsbD_window hi, BitVec.getLsbD_or, BitVec.getLsbD_shiftLeft, BitVec.getLsbD_ushiftRight]
  split_ifs with h
  · simp [h]
  · rw [BitVec.getLsbD_of_ge c.low _ (by omega)]
    simp [h, hi]

/-- The pair shifted left by the offset, its high byte (40_port_io.md section 3). -/
theorem Controller.window_eq_high_byte (c : Controller) :
    c.window = ((c.pair <<< c.offset.toNat) >>> 8).setWidth 8 := by
  apply BitVec.eq_of_getLsbD_eq
  intro i hi
  have ho : c.offset.toNat < 8 := c.offset.isLt
  rw [c.getLsbD_window hi, BitVec.getLsbD_setWidth, BitVec.getLsbD_ushiftRight, BitVec.getLsbD_shiftLeft,
    c.pair_eq_append, BitVec.getLsbD_append]
  have hreach : ¬ 8 + i < c.offset.toNat := by omega
  have hwidth : 8 + i < 16 := by omega
  have hbelow : 8 + i - c.offset.toNat < 8 ↔ i < c.offset.toNat := by omega
  have hlow : 8 + i - c.offset.toNat = 8 - c.offset.toNat + i := by omega
  have hhigh : 8 + i - c.offset.toNat - 8 = i - c.offset.toNat := by omega
  simp only [hi, hwidth, hreach, hbelow, decide_true, decide_false, Bool.not_false, Bool.true_and, hhigh]
  rw [hlow]

/-- At offset 0 the window is `high` (40_port_io.md R102). -/
theorem Controller.window_of_offset_zero {c : Controller} (h : c.offset = 0#3) : c.window = c.high := by
  apply BitVec.eq_of_getLsbD_eq
  intro i hi
  simp [c.getLsbD_window hi, h]

/-- A read on the bus does what the CPU's read does (40_port_io.md R112). -/
theorem meaning_decodeRead (p : Port) : meaning (decodeRead p) = portRead p := by
  funext s
  unfold decodeRead portRead
  split_ifs <;> rfl

/-- A write on the bus does what the CPU's write does (40_port_io.md R112). -/
theorem meaning_decodeWrite (p : Port) (v : Byte) : meaning (decodeWrite p v) = portWrite p v := by
  funext s
  unfold decodeWrite portWrite
  split_ifs <;> rfl

end Machine

end Sys2Proof
end

section
/-! The obligations about port reads and mapped events (40_port_io.md, 41_input_events.md), each settled from the rules
above. -/

open Sys2Proof Sys2Proof.Machine

/-- Settles O5: the two reads receive the halves of the Input Register. -/
theorem inputPortReads : Obligations.InputPortReads := fun s hs =>
  ⟨fun v => ⟨decode_bus_read 1#8 v, decode_bus_read 2#8 v⟩, perform_running readPort1 s hs,
    perform_running readPort2 s hs⟩

/-- Settles O6: the byte received is the shift window. -/
theorem shiftWindowRead : Obligations.ShiftWindowRead := fun s hs =>
  ⟨s.io.window, exec_in3_of_running s hs, s.io.window_eq_append, fun _ hi => s.io.getLsbD_window hi,
    Controller.window_of_offset_zero, decode_bus_read 3#8⟩

/-- Settles O7: each form has the window's bits. -/
theorem shiftWindowForms : Obligations.ShiftWindowForms := fun c =>
  ⟨(BitVec.setWidth_eq_extractLsb' (by decide)).symm, c.window_eq_or, c.window_eq_high_byte⟩

/-- Settles O8: the port map sends every other port to the fault, which has no successor. -/
theorem unknownPortReadFaults : Obligations.UnknownPortReadFaults := by
  intro s p v hs h1 h2 h3
  have hp : readable p = false := by simp [readable, h1, h2, h3]
  refine ⟨?_, exec_inUnimpl_of_running s p hs, rfl, step_of_faulted rfl⟩
  rw [decode_bus_read, decodeRead_of_not_readable hp]

/-- Settles O13: the bus word's operation and the CPU's access read the same port map. -/
theorem cpuPortAccessIsTheBusOperation : Obligations.CpuPortAccessIsTheBusOperation := by
  intro s p v i j hs hi hj
  obtain rfl : decodeRead p = i := Except.ok.inj ((decode_bus_read p v).symm.trans hi)
  obtain rfl : decodeWrite p v = j := Except.ok.inj ((decode_bus_write p v).symm.trans hj)
  refine ⟨?_, ?_⟩
  · rw [exec_of_running (decodeRead_wf_and_word p).1 hs, meaning_decodeRead]
    rfl
  · rw [exec_of_running (decodeWrite_wf_and_word p v).1 hs, meaning_decodeWrite]
    rfl

/-- Settles O15: the coin's press is `keyClr` and its release `keySet`. -/
theorem coinActionIsInverted : Obligations.CoinActionIsInverted := by
  intro s hs
  have hpress : exec .pressCoin s = .next (keyClr .coin s) := exec_of_running rfl hs
  have hrelease : exec .releaseCoin s = .next (keySet .coin s) := exec_of_running rfl hs
  exact ⟨decode_eventWord_toId .down .coin, decode_eventWord_toId .up .coin, hpress, hrelease,
    fun h => hpress.trans (congrArg _ (keyClr_of_clear .coin s h)),
    fun h => hrelease.trans (congrArg _ (keySet_of_set .coin s h))⟩

/-- Settles O19: the event writes its own bit alone, and no other action has that bit. -/
theorem mappedEventWritesOnlyItsOwnBit : Obligations.MappedEventWritesOnlyItsOwnBit := by
  intro s k a hs hc
  refine ⟨_, exec_of_running (eventInstr_wf_and_word k a).1 hs, ?_⟩
  rw [meaning_eventInstr]
  refine ⟨?_, fun j hj => ?_, fun b hb => ?_, rfl⟩
  · exact (s.cfg.getLsbD_writeSwitch a _ _ _).trans (if_pos rfl)
  · exact (s.cfg.getLsbD_writeSwitch a _ _ _).trans (if_neg hj)
  · exact (Config.getLsbD_writeSwitch_bit hc a b _ _).trans (if_neg hb)

/-- Settles O36, by induction on the queue from its last event. -/
theorem drainAppliesTheLastEventOfEachAction : Obligations.DrainAppliesTheLastEventOfEachAction := by
  intro s ph hs hc
  refine ⟨_, perform_running drainEvents s hs, ?_⟩
  rw [drainEvents_eq]
  exact ⟨rfl, applyEvents_bit hc s.events, fun _ => applyEvents_other_bit s s.events⟩

end

section
/-! SUPPORT. The decode pass as one loop over the source bits by their linear number (30_encoding.md R85): what one bit
does, what the first bits have drawn, and where the pass faults (42_video_decode.md R162 to R164). -/

namespace Sys2Proof

/-- A raster of the default extent, or a larger one, holds every destination (42_video_decode.md R163). -/
theorem Config.holds_of_fits {c : Config} (hc : c.fits) {n : Nat} (hn : n < 57344) : c.holds n = true := by
  obtain ⟨hrows, hcols⟩ := hc
  exact decide_eq_true ⟨by omega, by omega⟩

namespace Machine

/-! ### One source bit -/

/-- `PIXEL` of source bit `n`. -/
def decodeBit (n : Nat) : State → State := decodePixel (n / 256) (n % 256 / 8) (n % 8)

theorem decodeAll_eq_sweep (s : State) : decodeAll s = sweep 57344 decodeBit s := decodeAll_linear s

/-- A source bit, with its address as the rules print it (42_video_decode.md R160). -/
theorem sourceBit_eq (s : State) (col b i : Nat) :
    s.sourceBit col b i = (s.mem.read (s.cfg.vramBase.val + 32 * col + b)).getLsbD i := by
  rw [State.sourceBit, frameAddr_eq, Nat.add_assoc]

theorem sourceBit_linear (s : State) (n : Nat) : s.sourceBit (n / 256) (n % 256 / 8) (n % 8) = s.frameBit n := by
  rw [sourceBit_eq, State.frameBit, Nat.add_assoc, show 32 * (n / 256) + n % 256 / 8 = n / 8 by omega]

theorem destColumn_linear (c : Config) (n : Nat) : destColumn c (n % 256 / 8) (n % 8) = 256 - n % 256 := by
  rw [destColumn_eq, show 8 * (n % 256 / 8) + n % 8 = n % 256 by omega]

/-- A source bit that is clear does nothing; a set one lights its destination, or raises the fault where the raster does
not hold it. -/
theorem decodeBit_cases (n : Nat) (s : State) :
    (s.frameBit n = false ∧ decodeBit n s = s) ∨
    (s.frameBit n = true ∧ s.cfg.holds n = true ∧
      decodeBit n s = s.setRaster (s.raster.write (rasterKey s.cfg (n / 256) (256 - n % 256)) 255#8)) ∨
    (s.frameBit n = true ∧ s.cfg.holds n = false ∧
      decodeBit n s = s.raise (.rasterOutOfBounds (n / 256) (256 - n % 256))) := by
  rw [← sourceBit_linear, ← destColumn_linear s.cfg]
  rcases decodePixel_cases (n / 256) (n % 256 / 8) (n % 8) s with ⟨hbit, e⟩ | ⟨hbit, e⟩
  · exact .inl ⟨hbit, e⟩
  · rcases rasterSet_cases (n / 256) (destColumn s.cfg (n % 256 / 8) (n % 8)) s with ⟨hr, hc, g⟩ | ⟨hout, g⟩
    · refine .inr (.inl ⟨hbit, ?_, e.trans (g.trans ?_)⟩)
      · rw [destColumn_linear] at hc
        exact decide_eq_true ⟨hr, hc⟩
      · rw [Fixed.val_eq]
    · refine .inr (.inr ⟨hbit, ?_, e.trans g⟩)
      rw [destColumn_linear] at hout
      exact decide_eq_false hout

theorem decodeBit_frame (n : Nat) (s : State) : RasterFrame s (decodeBit n s) := decodePixel_frame _ _ _ s

theorem RasterFrame.frameBit {s t : State} (h : RasterFrame s t) (n : Nat) : t.frameBit n = s.frameBit n := by
  rw [State.frameBit, State.frameBit, h.cfg, h.mem]

/-- A set bit whose destination the raster does not hold raises the fault, also in the middle of a pass. -/
theorem decodeBit_of_outside {s t : State} (h : RasterFrame s t) {n : Nat} (hset : s.frameBit n = true)
    (hout : s.cfg.holds n = false) : decodeBit n t = t.raise (.rasterOutOfBounds (n / 256) (256 - n % 256)) := by
  rcases decodeBit_cases n t with ⟨hbit, -⟩ | ⟨-, hin, -⟩ | ⟨-, -, e⟩
  · cases (hset.symm.trans (h.frameBit n).symm).trans hbit
  · rw [h.cfg, hout] at hin
    cases hin
  · exact e

/-! ### The image of the first source bits -/

/-- One more source bit overlays its own destination. -/
theorem State.overlaid_succ (s : State) {n : Nat} (hn : n < 57344) (old : Byte) (r c : Nat) :
    s.overlaid (n + 1) old r c =
      if s.frameBit n = true ∧ r = n / 256 ∧ c = 256 - n % 256 then 255#8 else s.overlaid n old r c := by
  by_cases hdest : r = n / 256 ∧ c = 256 - n % 256
  · obtain ⟨hr, hc⟩ := hdest
    have hnumber : 256 * r + (256 - c) = n := by omega
    have hrange : r < 224 ∧ 1 ≤ c ∧ c ≤ 256 := by omega
    have hset : (s.frameBit n = true ∧ r = n / 256 ∧ c = 256 - n % 256) ↔ s.frameBit n = true := and_iff_left ⟨hr, hc⟩
    simp [State.overlaid, hnumber, hrange, hset]
  · have hnumber : r < 224 ∧ 1 ≤ c ∧ c ≤ 256 → (256 * r + (256 - c) < n + 1 ↔ 256 * r + (256 - c) < n) := by omega
    rw [if_neg fun h => hdest h.2]
    unfold State.overlaid
    refine if_congr ⟨fun ⟨hr, h1, hc, hlt, hbit⟩ => ?_, fun ⟨hr, h1, hc, hlt, hbit⟩ => ?_⟩ rfl rfl
    · exact ⟨hr, h1, hc, (hnumber ⟨hr, h1, hc⟩).mp hlt, hbit⟩
    · exact ⟨hr, h1, hc, (hnumber ⟨hr, h1, hc⟩).mpr hlt, hbit⟩

/-- The source bit an element shows, as the rules print its address (42_video_decode.md R164 (c)). -/
theorem State.lit_iff (s : State) (r c : Nat) :
    s.lit r c = true ↔ r < 224 ∧ 1 ≤ c ∧ c ≤ 256 ∧
      (s.mem.read (s.cfg.vramBase.val + 32 * r + (256 - c) / 8)).getLsbD ((256 - c) % 8) = true := by
  rw [State.lit, sourceBit_eq, Bool.and_eq_true, decide_eq_true_iff]
  tauto

/-- Overlaying all source bits lights exactly the elements that show a set one. -/
theorem State.overlaid_all (s : State) (old : Byte) (r c : Nat) :
    s.overlaid 57344 old r c = if s.lit r c = true then 255#8 else old := by
  unfold State.overlaid
  refine if_congr ?_ rfl rfl
  rw [s.lit_iff, State.frameBit]
  refine and_congr_right fun hr => and_congr_right fun h1 => and_congr_right fun hc => ?_
  have hbyte : (256 * r + (256 - c)) / 8 = 32 * r + (256 - c) / 8 := by omega
  have hbit : (256 * r + (256 - c)) % 8 = (256 - c) % 8 := by omega
  rw [hbyte, hbit, Nat.add_assoc]
  exact and_iff_right (by omega)

/-- Lighting an element changes that element of the raster and no other. -/
theorem pixelAt_write {s : State} (hw : Memory.wf (s.cfg.rasterRows * s.cfg.rasterCols) s.raster) {r c r' c' : Nat}
    (hc : c < s.cfg.rasterCols) (hc' : c' < s.cfg.rasterCols) (v : Byte) :
    (s.setRaster (s.raster.write (rasterKey s.cfg r' c') v)).pixelAt r c =
      if r = r' ∧ c = c' then v else s.pixelAt r c := by
  refine (Memory.read_write s.raster hw.1 _ _ v).trans (if_congr ⟨fun h => rasterKey_inj s.cfg hc hc' h, ?_⟩ rfl rfl)
  rintro ⟨rfl, rfl⟩
  rfl

/-- What a pass begun at `s` has done after its first `n` source bits, where none of them faulted. -/
structure Drawn (s : State) (n : Nat) (t : State) : Prop where
  frame : RasterFrame s t
  fault : t.fault = none
  image : Memory.wf (s.cfg.rasterRows * s.cfg.rasterCols) s.raster →
    Memory.wf (s.cfg.rasterRows * s.cfg.rasterCols) t.raster ∧
    ∀ r c, r < s.cfg.rasterRows → c < s.cfg.rasterCols → t.pixelAt r c = s.overlaid n (s.pixelAt r c) r c

theorem Drawn.zero {s : State} (hf : s.fault = none) : Drawn s 0 s :=
  ⟨.refl s, hf, fun hw => ⟨hw, fun r c _ _ => by simp [State.overlaid]⟩⟩

/-- A source bit whose destination the raster holds, or that is clear, is drawn. -/
theorem Drawn.succ {s t : State} {n : Nat} (h : Drawn s n t) (hn : n < 57344)
    (hin : s.frameBit n = true → s.cfg.holds n = true) : Drawn s (n + 1) (decodeBit n t) := by
  have hcfg := h.frame.cfg
  have hbit := h.frame.frameBit n
  rcases decodeBit_cases n t with ⟨hclear, e⟩ | ⟨hset, hholds, e⟩ | ⟨hset, hout, -⟩
  · rw [e]
    refine ⟨h.frame, h.fault, fun hw => ⟨(h.image hw).1, fun r c hr hc => ?_⟩⟩
    rw [s.overlaid_succ hn, if_neg (by simp [← hbit, hclear])]
    exact (h.image hw).2 r c hr hc
  · refine ⟨h.frame.trans (decodeBit_frame n t), by rw [e]; exact h.fault, fun hw => ?_⟩
    obtain ⟨hwf, himage⟩ := h.image hw
    rw [e]
    rw [hcfg] at hholds ⊢
    obtain ⟨hr', hc'⟩ := of_decide_eq_true hholds
    refine ⟨Memory.write_wf _ _ hwf _ (rasterKey_lt s.cfg hr' hc') _, fun r c hr hc => ?_⟩
    rw [s.overlaid_succ hn, ← himage r c hr hc]
    rw [← hcfg] at hwf hc hc' ⊢
    exact (pixelAt_write hwf hc hc' _).trans (if_congr (by simp [← hbit, hset]) rfl rfl)
  · rw [hcfg, hin (hbit.symm.trans hset)] at hout
    cases hout

/-- The first `n` source bits are drawn where the raster holds the destinations of the set ones among them. -/
theorem sweep_drawn {s : State} (hf : s.fault = none) {n : Nat} (hn : n ≤ 57344)
    (hin : ∀ m, m < n → s.frameBit m = true → s.cfg.holds m = true) : Drawn s n (sweep n decodeBit s) :=
  sweep_induction (fun k t => Drawn s k t) n decodeBit (fun k _ hk h => h.succ (by omega) (hin k hk))
    (fun _ _ h => h.fault) s (.zero hf)

/-- A pass over a memory whose image the raster holds draws all of it. -/
theorem decodeAll_drawn {s : State} (hf : s.fault = none) (hd : s.drawable) : Drawn s 57344 (decodeAll s) := by
  rw [decodeAll_eq_sweep]
  exact sweep_drawn hf (le_refl _) hd

/-- A pass ends at the first set source bit whose destination the raster does not hold (60_exceptions.md R214). -/
theorem decodeAll_of_outside {s : State} (hf : s.fault = none) {n : Nat} (hn : n < 57344) (hset : s.frameBit n = true)
    (hout : s.cfg.holds n = false) (hin : ∀ m, m < n → s.frameBit m = true → s.cfg.holds m = true) :
    decodeAll s = (sweep n decodeBit s).raise (.rasterOutOfBounds (n / 256) (256 - n % 256)) := by
  have hdrawn := sweep_drawn hf hn.le hin
  have hstop : sweep (n + 1) decodeBit s =
      (sweep n decodeBit s).raise (.rasterOutOfBounds (n / 256) (256 - n % 256)) := by
    rw [sweep_succ, if_pos (by simp [hdrawn.fault])]
    exact decodeBit_of_outside hdrawn.frame hset hout
  obtain ⟨m, hm⟩ := Nat.exists_eq_add_of_le (show n + 1 ≤ 57344 by omega)
  rw [decodeAll_eq_sweep, hm, sweep_add, hstop]
  exact sweep_faulted _ _ _ (by simp)

/-- A fault of the pass is that of a set source bit whose destination the raster does not hold. -/
theorem decodeAll_fault {s : State} (hf : s.fault = none) {r : FaultRecord} (h : (decodeAll s).fault = some r) :
    ∃ n, n < 57344 ∧ s.cfg.holds n = false ∧ r = .rasterOutOfBounds (n / 256) (256 - n % 256) := by
  by_cases hd : s.drawable
  · rw [(decodeAll_drawn hf hd).fault] at h
    cases h
  · have hex : ∃ n, n < 57344 ∧ s.frameBit n = true ∧ s.cfg.holds n = false := by
      simpa [State.drawable] using hd
    obtain ⟨hn, hset, hout⟩ := Nat.find_spec hex
    have hfirst : ∀ m, m < Nat.find hex → s.frameBit m = true → s.cfg.holds m = true := fun m hm hbit => by
      by_contra hholds
      exact Nat.find_min hex hm ⟨hm.trans hn, hbit, eq_false_of_ne_true hholds⟩
    rw [decodeAll_of_outside hf hn hset hout hfirst] at h
    exact ⟨Nat.find hex, hn, hout, (Option.some.inj h).symm⟩

/-! ### Drawing a frame -/

theorem clearRaster_pixelAt (s : State) (r c : Nat) : (clearRaster s).pixelAt r c = 0#8 := by
  rw [clearRaster_eq]
  rfl

/-- Clearing the raster changes neither the source bits nor the extent. -/
theorem clearRaster_drawable {s : State} (hd : s.drawable) : (clearRaster s).drawable := hd

/-- `FRAME` presents the pass over the cleared raster, or ends with it where it faults (43_scheduler.md R186). -/
theorem drawFrame_cases (s : State) :
    ((decodeAll (clearRaster s)).fault = none ∧
      drawFrame s = (presentRaster (decodeAll (clearRaster s))).goto .five) ∨
    ((decodeAll (clearRaster s)).fault ≠ none ∧ drawFrame s = decodeAll (clearRaster s)) := by
  simp only [drawFrame, Option.isNone_iff_eq_none]
  split_ifs with h
  · exact .inl ⟨h, rfl⟩
  · exact .inr ⟨h, rfl⟩

/-- The pass inside `FRAME` changes the raster and the fault alone. -/
theorem decodeAll_clearRaster_eq (s : State) :
    decodeAll (clearRaster s) =
      { s with raster := (decodeAll (clearRaster s)).raster, fault := (decodeAll (clearRaster s)).fault } :=
  (decodeAll_frame (clearRaster s)).eq

/-- `FRAME` over a memory whose image the raster holds: the image presented, step 5, and nothing else changed. -/
theorem drawFrame_of_drawable {s : State} (hf : s.fault = none) (hd : s.drawable) :
    ∃ m, drawFrame s = { s with raster := m, presented := some m, sched := { s.sched with sstep := .five } } ∧
      ∀ r c, r < s.cfg.rasterRows → c < s.cfg.rasterCols →
        m.read (rasterKey s.cfg r c) = if s.lit r c = true then 255#8 else 0#8 := by
  have hdrawn := decodeAll_drawn (s := clearRaster s) hf (clearRaster_drawable hd)
  have heq := decodeAll_clearRaster_eq s
  rcases drawFrame_cases s with ⟨-, e⟩ | ⟨hfault, -⟩
  · refine ⟨(decodeAll (clearRaster s)).raster, ?_, fun r c hr hc => ?_⟩
    · rw [e, heq, hdrawn.fault, ← hf]
      rfl
    · have hwf : Memory.wf ((clearRaster s).cfg.rasterRows * (clearRaster s).cfg.rasterCols) (clearRaster s).raster := by
        rw [clearRaster_eq]
        exact (rasterForm_nil s.cfg).1
      have himage := (hdrawn.image hwf).2 r c hr hc
      rw [State.overlaid_all, clearRaster_pixelAt, State.pixelAt, hdrawn.frame.cfg] at himage
      exact himage
  · exact absurd hdrawn.fault hfault

end Machine

end Sys2Proof
end

section
/-! The obligations about the video decoder (42_video_decode.md section 2, 43_scheduler.md R186), each settled from the
rules above. -/

open Sys2Proof Sys2Proof.Machine

/-- Settles O20: `PIXEL` is the source bit of its linear number, which lights its destination where it is set. -/
theorem pixelWritesItsDestination : Obligations.PixelWritesItsDestination := by
  intro s col b i hs hcol hin hwf
  refine ⟨decode_videoWord b i hcol, decodePixel col.toNat b.toNat i.toNat s,
    exec_of_running (i := .pixel col b i) (decide_eq_true hcol) hs, ?_⟩
  have hdest : destColumn s.cfg b.toNat i.toNat = 256 - (8 * b.toNat + i.toNat) := destColumn_eq _ _ _
  rw [← sourceBit_eq, ← hdest] at hin
  rw [← sourceBit_eq, ← hdest]
  rcases decodePixel_cases col.toNat b.toNat i.toNat s with ⟨hbit, e⟩ | ⟨hbit, e⟩
  · rw [e]
    exact ⟨rfl, fun r c _ _ => by simp [hbit]⟩
  · obtain ⟨hr', hc'⟩ := hin hbit
    rcases rasterSet_cases col.toNat (destColumn s.cfg b.toNat i.toNat) s with ⟨-, -, g⟩ | ⟨hout, -⟩
    · rw [e, g]
      refine ⟨rfl, fun r c _ hc => ?_⟩
      rw [pixelAt_write hwf hc hc', Fixed.val_eq]
      simp [hbit]
    · exact absurd ⟨hr', hc'⟩ hout

/-- Settles O22: the fault is raised and nothing else is written. -/
theorem pixelOutOfBoundsFaults : Obligations.PixelOutOfBoundsFaults := by
  intro s col b i hs hcol hbit hout
  refine ⟨(exec_of_running (i := .pixel col b i) (decide_eq_true hcol) hs).trans (congrArg _ ?_), rfl⟩
  rw [← sourceBit_eq] at hbit
  rw [← destColumn_eq s.cfg] at hout ⊢
  exact (if_pos hbit).trans (if_neg hout)

/-- Settles O23: the pass draws every source bit over what was there. -/
theorem decodePassOverlaysTheFrameBuffer : Obligations.DecodePassOverlaysTheFrameBuffer := by
  refine ⟨fun c hc n => Config.holds_of_fits hc, fun s hs hd hwf => ⟨_, perform_running decodeAll s hs, ?_⟩⟩
  have hf := ((State.running_iff s).mp hs).1
  have hdrawn := decodeAll_drawn hf hd
  refine ⟨?_, fun r c hr hc => ?_⟩
  · have heq := hdrawn.frame.eq
    rwa [hdrawn.fault, ← hf] at heq
  · rw [(hdrawn.image hwf).2 r c hr hc, State.overlaid_all]
    exact if_congr (s.lit_iff r c) rfl rfl

/-- Settles O24: the pass ends at the first set bit the raster does not hold, with the bits before it drawn. -/
theorem decodePassFaultsOnlyOutOfBounds : Obligations.DecodePassFaultsOnlyOutOfBounds := by
  intro s hs
  have hf := ((State.running_iff s).mp hs).1
  refine ⟨_, perform_running decodeAll s hs, (decodeAll_frame s).eq, fun hd => (decodeAll_drawn hf hd).fault,
    fun n hn hset hout hin => ?_⟩
  rw [decodeAll_of_outside hf hn hset hout hin]
  exact ⟨rfl, fun hwf => ((sweep_drawn hf hn.le hin).image hwf).2⟩

/-- Settles O25: an empty raster reads 0 everywhere. -/
theorem clearDarkensEveryElement : Obligations.ClearDarkensEveryElement := fun s hs =>
  ⟨_, perform_running clearRaster s hs, rfl, clearRaster_pixelAt s, rfl⟩

/-- Settles O26: `presentRaster` is the copy. -/
theorem presentCopiesTheRaster : Obligations.PresentCopiesTheRaster := fun s hs =>
  ⟨rfl, perform_running presentRaster s hs⟩

/-- Settles O27: the pass over the cleared raster draws the image of the memory alone. -/
theorem framePresentsTheFrameBuffer : Obligations.FramePresentsTheFrameBuffer := by
  intro s hs hd
  obtain ⟨m, e, himage⟩ := drawFrame_of_drawable ((State.running_iff s).mp hs).1 hd
  refine ⟨_, perform_running drawFrame s hs, ?_⟩
  rw [e]
  exact ⟨rfl, rfl, fun r c hr hc => (himage r c hr hc).trans (if_congr (s.lit_iff r c) rfl rfl)⟩

/-- Settles O28: where the pass faults `FRAME` is the pass, and a faulted `FRAME` has a faulted pass. -/
theorem frameFaultPresentsNothing : Obligations.FrameFaultPresentsNothing := by
  have hclear : ∀ s : State, { s with raster := [] } = clearRaster s := fun s => (clearRaster_eq s).symm
  refine ⟨fun s u hs hu hfault => ?_, fun s t ht hfault => ?_⟩
  · rw [hclear] at hu
    obtain ⟨-, rfl⟩ := exec_eq_next hu
    rcases drawFrame_cases s with ⟨hnone, -⟩ | ⟨-, e⟩
    · exact absurd hnone hfault
    · exact (perform_running drawFrame s hs).trans (congrArg _ (e.trans (decodeAll_clearRaster_eq s)))
  · obtain ⟨hs, ht⟩ := exec_eq_next ht
    have ht : t = drawFrame s := ht
    rw [hclear]
    rcases drawFrame_cases s with ⟨hnone, e⟩ | ⟨-, e⟩
    · rw [ht, e] at hfault
      exact absurd hnone hfault
    · rw [ht, e]
      exact ⟨decodeAll_clearRaster_eq s, _, perform_running decodeAll (clearRaster s) hs, rfl, rfl⟩

end

section
/-! SUPPORT. One access of the CPU, and one delivery of an interrupt (43_scheduler.md section 1). -/

namespace Sys2Proof.Machine

/-- An instruction of one access makes that access. -/
theorem cpuActs_singleton (a : CpuAct) (s : State) : cpuActs [a] s = cpuAct a s := by
  simp only [cpuActs, ite_self]

/-- Delivering an interrupt changes the executor's side, the memory and the step (43_scheduler.md R183, R184). -/
theorem deliver_goto_eq (v : Nat) (s : State) :
    (deliver v s).goto .three =
      { s with sched := { s.sched with sstep := .three }, cpu := (deliver v s).cpu, mem := (deliver v s).mem } := by
  conv_lhs => rw [deliver_frame]
  rfl

/-- A supplied response is written, and no free value is drawn (log entry 5). -/
theorem deliver_of_responses {v : Nat} {s : State} {r : List (Addr × Byte)} {rest : List (List (Addr × Byte))}
    (hr : s.cpu.responses = r :: rest) :
    (deliver v s).mem = s.mem.writeAll r ∧ (deliver v s).cpu.responses = rest ∧
      (deliver v s).cpu.draws = s.cpu.draws := by
  rw [deliver, hr]
  exact ⟨rfl, rfl, rfl⟩

end Sys2Proof.Machine
end

section
/-! The obligations about the steps of the scheduler (43_scheduler.md), each settled from the rules above. -/

open Sys2Proof Sys2Proof.Machine

/-- Settles O29: the frame of a slice, and the two ways it can end. -/
theorem sliceLeavesTheRestAlone : Obligations.SliceLeavesTheRestAlone := by
  intro s ph hs
  have h := slice_frame s
  refine ⟨_, perform_running slice s hs, h.cfg, h.inreg, h.phase, h.quit, h.events, h.raster, h.presented, h.host, h.txn,
    h.ended, h.vectors, h.responses, ?_⟩
  rcases slice_outcome s ((State.running_iff s).mp hs).1 with ⟨hnone, hmet, htwo, hout⟩ | ⟨hcyc, hstep, hin⟩
  · exact ⟨fun hf => absurd hnone hf, fun _ _ => ⟨htwo, hout⟩, fun _ hcyc => absurd hmet (Nat.not_le.mpr hcyc)⟩
  · exact ⟨fun _ => hstep, fun _ hmet => absurd hmet (Nat.not_le.mpr hcyc), fun _ _ => ⟨hstep, hin⟩⟩

/-- Settles O30: the slice executes the shortest run of the supplied instructions that reaches the budget. -/
theorem sliceRunsToTheBudget : Obligations.SliceRunsToTheBudget := by
  intro s ph hs hin hb hok hreach
  obtain ⟨n, h1, hlen, hmet, hbefore, hnone, e⟩ :=
    slice_of_reached ((State.running_iff s).mp hs).1 hin hb hok hreach
  refine ⟨_, n, perform_running slice s hs, ?_⟩
  rw [e]
  exact ⟨hnone, rfl, h1, hlen, rfl, rfl, hmet, hbefore, (runInstrs_frame _ s).draws, rfl, rfl, rfl⟩

/-- Settles O31: the slice stops in the faulting access, which raises its port's fault and does nothing else. -/
theorem portFaultEndsTheSlice : Obligations.PortFaultEndsTheSlice := by
  intro s ph pre rest earlier later bad cost hs hin hok hcost hearlier hbad hsupplied
  obtain ⟨r, hr, hread, hwrite⟩ := cpuAct_of_not_ok hbad (cpuActs earlier (runInstrs pre s))
  have e := slice_of_fault ((State.running_iff s).mp hs).1 hin hsupplied hok hcost hearlier hbad hr
  refine ⟨_, _, perform_running slice s hs, rfl, ?_⟩
  rw [e]
  exact ⟨fun p hp => congrArg some (hread p hp), fun p v hp => congrArg some (hwrite p v hp), Option.some_ne_none r,
    rfl, rfl, rfl, rfl, rfl, rfl⟩

/-- Settles O32: the one instruction meets the budget, and its store is a write of the byte store. -/
theorem cpuStoreWritesOneByte : Obligations.CpuStoreWritesOneByte := by
  intro s ph a v cost hs hin hb hcost hwf hsupplied
  have e := slice_of_met (pre := [⟨[.store a v], cost⟩]) (rest := []) ((State.running_iff s).mp hs).1 hin hsupplied
    (by simp) (by simp [CpuInstr.ok, CpuAct.ok]) (fun m hm => ?_) (by simpa using hcost)
  · refine ⟨_, perform_running slice s hs, ?_⟩
    have hrun : runInstrs [⟨[.store a v], cost⟩] s = s.setMem (s.mem.write a.toNat v) := cpuActs_singleton _ s
    rw [e, hrun]
    refine ⟨rfl, rfl, rfl, ?_, fun x hx => ?_, Memory.write_wf _ _ hwf _ a.isLt _⟩
    · exact (Memory.read_write s.mem hwf.1 _ _ v).trans (if_pos rfl)
    · exact (Memory.read_write s.mem hwf.1 _ _ v).trans (if_neg hx)
  · obtain rfl : m = 0 := by simpa using hm
    exact hb

/-- Settles O33: each delivery hands over its vector, and writes the response the state supplies. -/
theorem interruptDeliversItsVector : Obligations.InterruptDeliversItsVector := by
  intro s hs x hx
  have hexec : exec x.1 s = .next ((deliver x.2 s).goto .three) := by
    revert x
    exact List.forall_mem_cons.mpr ⟨exec_intrMid_of_running s hs,
      List.forall_mem_singleton.mpr (exec_intrEnd_of_running s hs)⟩
  obtain ⟨hvectors, hreceived, hsupplied⟩ := deliver_cpu x.2 s
  exact ⟨_, hexec, hvectors, hreceived, hsupplied, deliver_goto_eq x.2 s, fun _ _ => deliver_of_responses⟩

/-- Settles O35: the operation moves the step alone. -/
theorem frameSkipDrawsNothing : Obligations.FrameSkipDrawsNothing := fun _ hs =>
  ⟨decode_schedWord .four .fin, exec_of_running (i := .frameSkip) rfl hs⟩

/-- Settles O37: the exit check reads `quit`, and an ended run has no step. -/
theorem quitCheckEndsTheRun : Obligations.QuitCheckEndsTheRun := by
  intro s ph hs
  have hexec : exec (.quitChk ph) s = .next (quitCheck s) := perform_running quitCheck s hs
  refine ⟨fun hq => ⟨hexec.trans (congrArg _ (if_pos hq)), ?_⟩, fun hq => hexec.trans (congrArg _ ?_)⟩
  · exact step_of_ended (s := s.finish) ((State.running_iff s).mp hs).1 rfl
  · exact if_neg (by simp [hq])

/-- Settles O38: the budget is a quotient of natural numbers. -/
theorem budgetIsTheFloorOfTheRatio : Obligations.BudgetIsTheFloorOfTheRatio := by
  refine ⟨fun c hc => ⟨Nat.div_mul_le_self _ _, ?_⟩, by decide⟩
  rw [Nat.mul_comm]
  exact Nat.lt_mul_div_succ c.clockHz (by omega)

end

section
/-! SUPPORT. What each step of the scheduler leaves alone (10_state.md section 8), where a fault can come from
(60_exceptions.md section 1), and the host's turn and boot in full (43_scheduler.md R195, 70_reset_and_hazards.md R244). -/

namespace Sys2Proof

/-- The event a host action appends, none for quit (30_encoding.md R92). -/
def Machine.HostAct.event : Machine.HostAct → Option Machine.Event
  | .key k id => some ⟨k, id⟩
  | .quit => none

theorem SStep.eq_one_of_ports {st : SStep} {ph : Phase}
    (h : Laws.tableFormat (schedInstr st ph) = .b ∨ ∃ p, schedInstr st ph = .slice p) : st = .one := by
  cases st with
  | one => rfl
  | _ => cases ph <;> simp [schedInstr, Laws.tableFormat] at h

theorem SStep.eq_four_of_video {st : SStep} {ph : Phase}
    (h : Laws.tableFormat (schedInstr st ph) = .v ∨ schedInstr st ph = .decodePass ∨ schedInstr st ph = .frame) :
    st = .four ∧ ph = .mid := by
  cases st with
  | four =>
    cases ph with
    | mid => exact ⟨rfl, rfl⟩
    | fin => simp [schedInstr, Laws.tableFormat] at h
  | _ => cases ph <;> simp [schedInstr, Laws.tableFormat] at h

namespace Machine

/-! ### The frame of a step of the scheduler -/

/-- What step `st` of the scheduler leaves alone. -/
structure StepFrame (st : SStep) (s t : State) : Prop where
  cfg : t.cfg = s.cfg
  quit : t.quit = s.quit
  host : t.host = s.host
  txn : t.txn = s.txn
  shift : st ≠ .one → t.io.low = s.io.low ∧ t.io.high = s.io.high ∧ t.io.offset = s.io.offset
  count : st ≠ .one → t.sched.cyc = s.sched.cyc ∧ t.sched.inSlice = s.sched.inSlice
  received : st ≠ .one → t.cpu.received = s.cpu.received
  supplied : st ≠ .one → t.cpu.supplied = s.cpu.supplied
  vectors : st ≠ .two → t.cpu.vectors = s.cpu.vectors
  responses : st ≠ .two → t.cpu.responses = s.cpu.responses
  phase : st ≠ .three → t.sched.phase = s.sched.phase
  raster : st ≠ .four → t.raster = s.raster
  presented : st ≠ .four → t.presented = s.presented
  inreg : st ≠ .five → t.io.inreg = s.io.inreg
  events : st ≠ .five → t.events = s.events
  ended : st ≠ .six → t.ended = s.ended
  mem : st ≠ .one → st ≠ .two → t.mem = s.mem

theorem slice_stepFrame (s : State) : StepFrame .one s (slice s) := by
  have h := slice_frame s
  exact ⟨h.cfg, h.quit, h.host, h.txn, fun h1 => absurd rfl h1, fun h1 => absurd rfl h1, fun h1 => absurd rfl h1,
    fun h1 => absurd rfl h1, fun _ => h.vectors, fun _ => h.responses, fun _ => h.phase, fun _ => h.raster,
    fun _ => h.presented, fun _ => h.inreg, fun _ => h.events, fun _ => h.ended, fun h1 => absurd rfl h1⟩

theorem deliver_stepFrame (v : Nat) (s : State) : StepFrame .two s ((deliver v s).goto .three) := by
  obtain ⟨-, hreceived, hsupplied⟩ := deliver_cpu v s
  rw [deliver_goto_eq]
  exact ⟨rfl, rfl, rfl, rfl, fun _ => ⟨rfl, rfl, rfl⟩, fun _ => ⟨rfl, rfl⟩, fun _ => hreceived, fun _ => hsupplied,
    fun h2 => absurd rfl h2, fun h2 => absurd rfl h2, fun _ => rfl, fun _ => rfl, fun _ => rfl, fun _ => rfl,
    fun _ => rfl, fun _ => rfl, fun _ h2 => absurd rfl h2⟩

theorem togglePhase_stepFrame (s : State) : StepFrame .three s (togglePhase s) :=
  ⟨rfl, rfl, rfl, rfl, fun _ => ⟨rfl, rfl, rfl⟩, fun _ => ⟨rfl, rfl⟩, fun _ => rfl, fun _ => rfl, fun _ => rfl,
    fun _ => rfl, fun h3 => absurd rfl h3, fun _ => rfl, fun _ => rfl, fun _ => rfl, fun _ => rfl, fun _ => rfl,
    fun _ _ => rfl⟩

/-- What step 4 leaves alone, whether it draws, draws up to a fault, or does not draw. -/
theorem stepFrame_four {s t : State} (h : t = { s with
    raster := t.raster, presented := t.presented, fault := t.fault, sched := { s.sched with sstep := t.sched.sstep } }) :
    StepFrame .four s t := by
  rw [h]
  exact ⟨rfl, rfl, rfl, rfl, fun _ => ⟨rfl, rfl, rfl⟩, fun _ => ⟨rfl, rfl⟩, fun _ => rfl, fun _ => rfl, fun _ => rfl,
    fun _ => rfl, fun _ => rfl, fun h4 => absurd rfl h4, fun h4 => absurd rfl h4, fun _ => rfl, fun _ => rfl,
    fun _ => rfl, fun _ _ => rfl⟩

theorem drawFrame_stepFrame (s : State) : StepFrame .four s (drawFrame s) := by
  refine stepFrame_four ?_
  rcases drawFrame_cases s with ⟨-, e⟩ | ⟨-, e⟩
  · rw [e, decodeAll_clearRaster_eq]
    rfl
  · rw [e, decodeAll_clearRaster_eq]

theorem drainEvents_stepFrame (s : State) : StepFrame .five s (drainEvents s) := by
  rw [drainEvents_eq]
  exact ⟨rfl, rfl, rfl, rfl, fun _ => ⟨rfl, rfl, rfl⟩, fun _ => ⟨rfl, rfl⟩, fun _ => rfl, fun _ => rfl, fun _ => rfl,
    fun _ => rfl, fun _ => rfl, fun _ => rfl, fun _ => rfl, fun h5 => absurd rfl h5, fun h5 => absurd rfl h5,
    fun _ => rfl, fun _ _ => rfl⟩

theorem quitCheck_stepFrame (s : State) : StepFrame .six s (quitCheck s) := by
  unfold quitCheck
  split <;> exact ⟨rfl, rfl, rfl, rfl, fun _ => ⟨rfl, rfl, rfl⟩, fun _ => ⟨rfl, rfl⟩, fun _ => rfl, fun _ => rfl,
    fun _ => rfl, fun _ => rfl, fun _ => rfl, fun _ => rfl, fun _ => rfl, fun _ => rfl, fun _ => rfl,
    fun h6 => absurd rfl h6, fun _ _ => rfl⟩

theorem schedInstr_stepFrame (st : SStep) (ph : Phase) (s : State) :
    StepFrame st s (meaning (schedInstr st ph) s) := by
  cases st with
  | one => exact slice_stepFrame s
  | two =>
    cases ph with
    | mid => exact deliver_stepFrame _ s
    | fin => exact deliver_stepFrame _ s
  | three => exact togglePhase_stepFrame s
  | four =>
    cases ph with
    | mid => exact drawFrame_stepFrame s
    | fin => exact stepFrame_four rfl
  | five => exact drainEvents_stepFrame s
  | six => exact quitCheck_stepFrame s

/-! ### Where a fault can come from -/

/-- A raster that does not fit the decoder is the only one in which `PIXEL` faults. -/
theorem decodePixel_fault {col b i : Nat} {s : State} {r : FaultRecord} (hcol : col < 224) (hf : s.fault = none)
    (h : (decodePixel col b i s).fault = some r) : ¬ s.cfg.fits ∧ r.code = 3 := by
  rcases decodePixel_cases col b i s with ⟨-, e⟩ | ⟨-, e⟩
  · rw [e, hf] at h
    cases h
  · rcases rasterSet_cases col (destColumn s.cfg b i) s with ⟨-, -, g⟩ | ⟨hout, g⟩ <;> rw [e, g] at h
    · cases hf.symm.trans h
    · cases h
      refine ⟨fun ⟨hrows, hcols⟩ => hout ⟨by omega, ?_⟩, rfl⟩
      rw [destColumn_eq]
      omega

theorem decodeAll_fault_code {s : State} {r : FaultRecord} (hf : s.fault = none)
    (h : (decodeAll s).fault = some r) : ¬ s.cfg.fits ∧ r.code = 3 := by
  obtain ⟨n, hn, hout, rfl⟩ := decodeAll_fault hf h
  refine ⟨fun hfits => ?_, rfl⟩
  rw [Config.holds_of_fits hfits hn] at hout
  cases hout

/-- An operation that ends in a fault is a port access or a slice, with a port fault, or draws into a raster that does not
fit the decoder. The updates of the operations not named in the proof name no fault: there it is kept by computation. -/
theorem meaning_fault {i : Instr} {s : State} {r : FaultRecord} (hi : i.wf = true) (hf : s.fault = none)
    (h : (meaning i s).fault = some r) :
    ((Laws.tableFormat i = .b ∨ ∃ ph, i = .slice ph) ∧ (r.code = 1 ∨ r.code = 2)) ∨
    ((Laws.tableFormat i = .v ∨ i = .decodePass ∨ i = .frame) ∧ ¬ s.cfg.fits ∧ r.code = 3) := by
  have hquiet : (meaning i s).fault ≠ s.fault := fun e => by
    rw [e, hf] at h
    cases h
  cases i with
  | inUnimpl p =>
    cases h
    exact .inl ⟨.inl rfl, .inl rfl⟩
  | outUnimpl p v =>
    cases h
    exact .inl ⟨.inl rfl, .inr rfl⟩
  | slice ph => exact .inl ⟨.inr ⟨ph, rfl⟩, slice_fault_code s hf r h⟩
  | pixel col b k => exact .inr ⟨.inl rfl, decodePixel_fault (of_decide_eq_true hi) hf h⟩
  | decodePass => exact .inr ⟨.inr (.inl rfl), decodeAll_fault_code hf h⟩
  | frame =>
    refine .inr ⟨.inr (.inr rfl), decodeAll_fault_code (s := clearRaster s) hf ?_⟩
    rcases drawFrame_cases s with ⟨hnone, e⟩ | ⟨-, e⟩
    · exact absurd ((congrArg State.fault e).trans (hnone.trans hf.symm)) hquiet
    · exact (congrArg State.fault e).symm.trans h
  | intrMid => exact absurd (congrArg State.fault (deliver_goto_eq _ s)) hquiet
  | intrEnd => exact absurd (congrArg State.fault (deliver_goto_eq _ s)) hquiet
  | drain ph => exact absurd (congrArg State.fault (drainEvents_eq s)) hquiet
  | quitChk ph =>
    refine absurd (?_ : (quitCheck s).fault = s.fault) hquiet
    unfold quitCheck
    split <;> rfl
  | _ => exact absurd rfl hquiet

/-! ### The host's turn -/

/-- The host's batch appends its events in order, and raises the quit latch if it asks so. -/
theorem hostActs_eq (batch : List HostAct) (s : State) :
    batch.foldl hostAct s =
      { s with quit := s.quit || batch.contains .quit, events := s.events ++ batch.filterMap HostAct.event } := by
  induction batch generalizing s with
  | nil => simp
  | cons a rest ih =>
    rw [List.foldl_cons, ih]
    cases a with
    | key k id => simp [hostAct, State.setEvents, HostAct.event]
    | quit => simp [hostAct, State.setQuit, List.filterMap_cons, HostAct.event]

theorem hostTurn_of_inSlice {s : State} (h : s.sched.inSlice = true) : hostTurn s = s := if_pos h

theorem hostTurn_of_batch {s : State} {batch : List HostAct} {rest : List (List HostAct)}
    (hin : s.sched.inSlice = false) (hhost : s.host = batch :: rest) :
    hostTurn s = batch.foldl hostAct (s.setHost rest) := by
  simp [hostTurn, hin, hhost]

/-! ### Boot -/

/-- An image below `VRAM_BASE` is inside the address space (00_scope.md R7). -/
theorem image_fits {c : Config} {image : List Byte} (h : image.length ≤ c.vramBase.val) :
    0 + image.length ≤ addrSpace := by
  have hvram : c.vramBase.val < addrSpace - fbSize + 1 := c.vramBase.isLt
  omega

theorem boot_of_fits {c : Config} {image : List Byte} (h : image.length ≤ c.vramBase.val) :
    boot c (some image) false = .next ((State.resetWith c).raise .surfaceInitFailure) ∧
      boot c (some image) true = .next ((State.resetWith c).setMem (loadImage [] 0 image)) := by
  simp [boot, h]

theorem boot_of_too_long {c : Config} {image : List Byte} (h : c.vramBase.val < image.length) (ok : Bool) :
    boot c (some image) ok = .refused .imageTooLong := by
  simp [boot, h]

end Machine

end Sys2Proof
end

section
/-! The obligations about the whole machine (10_state.md, 20_memory.md, 60_exceptions.md, 70_reset_and_hazards.md), each
settled from the rules above. -/

open Sys2Proof Sys2Proof.Machine

/-- Settles O45: the codes are read off. -/
theorem faultCodes : Obligations.FaultCodes := fun _ _ _ => ⟨rfl, rfl, rfl, rfl, rfl⟩

/-- Settles O46: of the six operations of the loop only `SLICE` and `FRAME` can fault. -/
theorem faultsOfTheLoop : Obligations.FaultsOfTheLoop := by
  intro s t r htxn hstep hr
  obtain ⟨hrun, rfl⟩ := step_of_txn_none htxn hstep
  have hf : s.ready.fault = none := s.ready_fault.trans ((State.running_iff s).mp hrun).1
  rcases meaning_fault (schedInstr_wf_and_word _ _).1 hf hr with ⟨hsite, hcode⟩ | ⟨hsite, -, hcode⟩
  · exact .inl ⟨SStep.eq_one_of_ports hsite, hcode⟩
  · obtain ⟨hfour, hmid⟩ := SStep.eq_four_of_video hsite
    exact .inr ⟨hfour, hmid, hcode⟩

/-- Settles O47: code 3 needs a raster that does not fit the decoder. -/
theorem rasterFaultIsUnreachable : Obligations.RasterFaultIsUnreachable := by
  intro s t row col hfits hstep hfault
  have hunreachable : ∀ i : Instr, i.wf = true → s.running = true →
      (meaning i s.ready).fault ≠ some (.rasterOutOfBounds row col) := fun i hi hrun h => by
    have hf : s.ready.fault = none := s.ready_fault.trans ((State.running_iff s).mp hrun).1
    rcases meaning_fault hi hf h with ⟨-, hcode | hcode⟩ | ⟨-, hsmall, -⟩
    · cases hcode
    · cases hcode
    · exact hsmall (s.ready_cfg.symm ▸ hfits)
  obtain ⟨hrun, ⟨-, rfl⟩ | ⟨w, i, -, hi, rfl⟩⟩ := step_cases hstep
  · exact hunreachable _ (schedInstr_wf_and_word _ _).1 hrun hfault
  · exact hunreachable i (encodeOfDecodeIsTheWord w i hi).1 hrun hfault

/-- Settles O48: the frame of the step performed, on a state that differs from the one before in the host's fields, the
queue and the quit latch alone. -/
theorem whoWritesWhat : Obligations.WhoWritesWhat := by
  intro s t htxn hstep
  obtain ⟨-, rfl⟩ := step_of_txn_none htxn hstep
  have h := schedInstr_stepFrame s.sched.sstep s.sched.phase s.ready
  refine ⟨h.cfg.trans s.ready_cfg, fun hq => h.quit.trans (State.ready_quit hq), fun h1 => ?_,
    fun h2 => ⟨(h.vectors h2).trans (by simp), (h.responses h2).trans (by simp)⟩,
    fun h3 => (h.phase h3).trans (by simp),
    fun h4 => ⟨(h.raster h4).trans (by simp), (h.presented h4).trans (by simp)⟩,
    fun h5 => (h.inreg h5).trans (by simp), fun h6 => (h.ended h6).trans (by simp),
    fun h1 h2 => (h.mem h1 h2).trans (by simp)⟩
  obtain ⟨hlow, hhigh, hoffset⟩ := h.shift h1
  rw [s.ready_io] at hlow hhigh hoffset
  exact ⟨hlow, hhigh, hoffset, (h.count h1).1.trans (by simp), (h.received h1).trans (by simp),
    (h.supplied h1).trans (by simp)⟩

/-- Settles O49: the batch is performed act by act. -/
theorem hostActsOnlyBetweenSteps : Obligations.HostActsOnlyBetweenSteps :=
  ⟨fun _ => hostTurn_of_inSlice,
    fun s batch rest hin hhost => (hostTurn_of_batch hin hhost).trans (hostActs_eq batch (s.setHost rest))⟩

/-- Settles O50: the reset state is read off. -/
theorem resetState : Obligations.ResetState :=
  ⟨fun _ => ⟨rfl, rfl, rfl, rfl, rfl, rfl, rfl, rfl, rfl, rfl, rfl, rfl⟩, rfl, rfl, rfl⟩

/-- Settles O51: a failed boot is a faulted state, and loading writes byte `i` at address `i`. -/
theorem bootLoadsTheImageOrFails : Obligations.BootLoadsTheImageOrFails := by
  intro c
  refine ⟨fun ok => ⟨_, rfl, rfl, step_of_faulted rfl⟩, fun image h => ?_, fun image ok h => boot_of_too_long h ok⟩
  obtain ⟨hfail, hload⟩ := boot_of_fits h
  have hempty : Memory.wf addrSpace [] := reset_memWf
  refine ⟨⟨_, hfail, rfl, step_of_faulted rfl⟩, _, hload, rfl, loadImage_wf image [] 0 hempty (image_fits h),
    fun i hi => ?_⟩
  exact (loadImage_read image [] 0 i hempty (image_fits h)).trans (if_pos ⟨Nat.zero_le i, by omega⟩)

end

section
/-! SUPPORT. The loop with a host that does nothing (43_scheduler.md section 3): steps one after another, the five steps
after a slice, a slice to its end, and lists of operations (30_encoding.md section 4). -/

namespace Sys2Proof.Machine

/-! ### Lists of operations and steps, one after another -/

/-- An operation of a list that goes on without a fault is followed by the others. -/
theorem execAll_cons_of_next {n : Nat} {i : Instr} {rest : List Instr} {s t : State} (h : exec i s = .next t)
    (hi : unfinished i t = false) (ht : t.fault = none) : execAll n (i :: rest) s = execAll n rest t := by
  rw [execAll_cons n i rest s t (execToEnd_finished n i s t h hi), if_pos (by simp [ht])]

/-- An operation of a list that goes on with a fault is the last one performed. -/
theorem execAll_cons_of_fault {n : Nat} {i : Instr} {rest : List Instr} {s t : State} (h : exec i s = .next t)
    (hi : unfinished i t = false) (ht : t.fault ≠ none) : execAll n (i :: rest) s = some (.next t) := by
  rw [execAll_cons n i rest s t (execToEnd_finished n i s t h hi), if_neg (by simpa using ht)]

/-- Where a list goes on, its first operation did, and the others followed unless it faulted. -/
theorem execAll_cons_eq_next {n : Nat} {i : Instr} {rest : List Instr} {s t : State}
    (h : execAll n (i :: rest) s = some (.next t)) :
    ∃ v, execToEnd n i s = some (.next v) ∧
      ((v.fault = none ∧ execAll n rest v = some (.next t)) ∨ (v.fault ≠ none ∧ v = t)) := by
  rw [execAll] at h
  split at h
  · rename_i v hv
    refine ⟨v, hv, ?_⟩
    split_ifs at h with hf
    · exact .inl ⟨by simpa using hf, h⟩
    · cases h
      exact .inr ⟨by simpa using hf, rfl⟩
  · cases h
  · cases h
  · cases h

theorem runSteps_succ {n : Nat} {s t : State} (h : step s = .next t) : runSteps (n + 1) s = runSteps n t := by
  rw [runSteps, h]

theorem runSteps_add {a : Nat} {s v : State} (h : runSteps a s = .next v) (b : Nat) :
    runSteps (a + b) s = runSteps b v := by
  induction a generalizing s with
  | zero =>
    cases h
    rw [Nat.zero_add]
  | succ a ih =>
    rw [runSteps] at h
    split at h
    · rename_i u hu
      rw [Nat.add_right_comm, runSteps_succ hu, ih h]
    · cases h
    · cases h

/-- From `s` both the operations `l` of a list and `k` steps lead to `t`, and go on from there. -/
structure Performs (s : State) (l : List Instr) (k : Nat) (t : State) : Prop where
  list : ∀ n rest, execAll n (l ++ rest) s = execAll n rest t
  steps : ∀ j, runSteps (k + j) s = runSteps j t

theorem Performs.trans {s t u : State} {l m : List Instr} {j k : Nat} (h : Performs s l j t) (g : Performs t m k u) :
    Performs s (l ++ m) (j + k) u where
  list := fun n rest => by rw [List.append_assoc, h.list, g.list]
  steps := fun i => by rw [Nat.add_assoc, h.steps, g.steps]

theorem Performs.execAll_eq {s t : State} {l : List Instr} {k : Nat} (h : Performs s l k t) (n : Nat) :
    execAll n l s = some (.next t) := by
  have hlist := h.list n []
  rwa [List.append_nil] at hlist

theorem Performs.runSteps_eq {s t : State} {l : List Instr} {k : Nat} (h : Performs s l k t) :
    runSteps k s = .next t := h.steps 0

/-! ### A place in the loop -/

/-- The run is going, the host does nothing, no word is presented, and the scheduler is at step `st` in phase `ph`. -/
structure State.At (st : SStep) (ph : Phase) (s : State) : Prop where
  running : s.running = true
  txn : s.txn = none
  host : s.host = []
  sstep : s.sched.sstep = st
  phase : s.sched.phase = ph

section
variable {st : SStep} {ph : Phase} {s t : State} (h : s.At st ph)
include h

theorem State.At.fault : s.fault = none := ((State.running_iff s).mp h.running).1

theorem State.At.exec : exec (schedInstr st ph) s = .next (meaning (schedInstr st ph) s) :=
  exec_of_running (schedInstr_wf_and_word st ph).1 h.running

/-- The step of a place in the loop is its operation, performed on the state as it is. -/
theorem State.At.step : step s = .next (meaning (schedInstr st ph) s) := by
  have hstep := step_of_decode_ok h.running (decode_nextWord_of_none h.txn)
  rw [h.sstep, h.phase, hostTurn_nil s h.host] at hstep
  have hsame : s.setTxn none = s := by
    rw [← h.txn]
    rfl
  rw [hstep, hsame, h.exec]

/-- A step before the exit check that does not fault leads to the place its operation names. -/
theorem State.At.advance {st' : SStep} {ph' : Phase} (hframe : StepFrame st s t) (hst : st ≠ .six)
    (hfault : t.fault = none) (hstep : t.sched.sstep = st') (hphase : t.sched.phase = ph') : t.At st' ph' where
  running := (State.running_iff t).mpr ⟨hfault, (hframe.ended hst).trans ((State.running_iff s).mp h.running).2⟩
  txn := hframe.txn.trans h.txn
  host := hframe.host.trans h.host
  sstep := hstep
  phase := hphase

end

theorem unfinished_schedInstr {st : SStep} (hst : st ≠ .one) (ph : Phase) (t : State) :
    unfinished (schedInstr st ph) t = false := by
  cases st with
  | one => exact absurd rfl hst
  | two => cases ph <;> rfl
  | four => cases ph <;> rfl
  | _ => rfl

/-- A step after `SLICE` that does not fault is one step of the loop and one operation of a list. -/
theorem State.At.performs {st : SStep} {ph : Phase} {s : State} (h : s.At st ph) (hst : st ≠ .one)
    (hfault : (meaning (schedInstr st ph) s).fault = none) :
    Performs s [schedInstr st ph] 1 (meaning (schedInstr st ph) s) where
  list := fun _ _ => execAll_cons_of_next h.exec (unfinished_schedInstr hst ph _) hfault
  steps := fun j => by rw [Nat.add_comm, runSteps_succ h.step]

/-! ### The six steps as places in the loop -/

theorem State.At.deliver {ph : Phase} {s : State} (h : s.At .two ph) :
    (meaning (schedInstr .two ph) s).At .three ph ∧
      (meaning (schedInstr .two ph) s).cpu.vectors = s.vector :: s.cpu.vectors := by
  have hmeaning : meaning (schedInstr .two ph) s = (Machine.deliver s.vector s).goto .three := by
    rw [State.vector, h.phase]
    cases ph <;> rfl
  have hframe := deliver_stepFrame s.vector s
  rw [hmeaning]
  refine ⟨h.advance hframe (by decide) ?_ rfl ((hframe.phase (by decide)).trans h.phase), (deliver_cpu _ s).1⟩
  rw [deliver_goto_eq]
  exact h.fault

theorem State.At.toggle {ph : Phase} {s : State} (h : s.At .three ph) :
    (meaning (schedInstr .three ph) s).At .four ph.other :=
  h.advance (togglePhase_stepFrame s) (by decide) h.fault rfl (congrArg Phase.other h.phase)

theorem State.At.draw {ph : Phase} {s : State} (h : s.At .four ph)
    (hfault : (meaning (schedInstr .four ph) s).fault = none) : (meaning (schedInstr .four ph) s).At .five ph := by
  have hframe := schedInstr_stepFrame .four ph s
  refine h.advance hframe (by decide) hfault ?_ ((hframe.phase (by decide)).trans h.phase)
  cases ph with
  | mid =>
    rcases drawFrame_cases s with ⟨-, e⟩ | ⟨hf, e⟩
    · exact congrArg (fun t : State => t.sched.sstep) e
    · exact absurd ((congrArg State.fault e).symm.trans hfault) hf
  | fin => rfl

theorem State.At.drain {ph : Phase} {s : State} (h : s.At .five ph) :
    (meaning (schedInstr .five ph) s).At .six ph ∧ (meaning (schedInstr .five ph) s).events = [] := by
  have hframe := schedInstr_stepFrame .five ph s
  have hfault : (drainEvents s).fault = none := by
    rw [drainEvents_eq]
    exact h.fault
  exact ⟨h.advance hframe (by decide) hfault rfl ((hframe.phase (by decide)).trans h.phase), rfl⟩

theorem State.At.quitCheck {ph : Phase} {s : State} (h : s.At .six ph) :
    (meaning (schedInstr .six ph) s).fault = none ∧
      (s.quit = true → (meaning (schedInstr .six ph) s).ended = true) ∧
      (s.quit = false → (meaning (schedInstr .six ph) s).At .one ph) := by
  by_cases hq : s.quit = true
  · have hmeaning : meaning (schedInstr .six ph) s = s.finish := if_pos hq
    rw [hmeaning]
    exact ⟨h.fault, fun _ => rfl, fun hq' => by cases hq.symm.trans hq'⟩
  · have hmeaning : meaning (schedInstr .six ph) s = s.goto .one := if_neg hq
    rw [hmeaning]
    exact ⟨h.fault, fun hq' => absurd hq' hq, fun _ => ⟨h.running, h.txn, h.host, rfl, h.phase⟩⟩

/-! ### The five steps after a slice -/

/-- What every step but `SLICE` leaves alone. -/
structure SliceKept (s t : State) : Prop where
  cfg : t.cfg = s.cfg
  quit : t.quit = s.quit
  shift : t.io.low = s.io.low ∧ t.io.high = s.io.high ∧ t.io.offset = s.io.offset
  cyc : t.sched.cyc = s.sched.cyc
  inSlice : t.sched.inSlice = s.sched.inSlice
  received : t.cpu.received = s.cpu.received
  supplied : t.cpu.supplied = s.cpu.supplied

theorem SliceKept.trans {s t u : State} (h : SliceKept s t) (g : SliceKept t u) : SliceKept s u where
  cfg := g.cfg.trans h.cfg
  quit := g.quit.trans h.quit
  shift := ⟨g.shift.1.trans h.shift.1, g.shift.2.1.trans h.shift.2.1, g.shift.2.2.trans h.shift.2.2⟩
  cyc := g.cyc.trans h.cyc
  inSlice := g.inSlice.trans h.inSlice
  received := g.received.trans h.received
  supplied := g.supplied.trans h.supplied

theorem StepFrame.sliceKept {st : SStep} {s t : State} (h : StepFrame st s t) (hst : st ≠ .one) : SliceKept s t where
  cfg := h.cfg
  quit := h.quit
  shift := h.shift hst
  cyc := (h.count hst).1
  inSlice := (h.count hst).2
  received := h.received hst
  supplied := h.supplied hst

/-- What an element shows depends on the memory and the configuration alone (42_video_decode.md R164). -/
theorem State.lit_congr {s t : State} (hcfg : t.cfg = s.cfg) (hmem : t.mem = s.mem) (r c : Nat) :
    t.lit r c = s.lit r c := by
  rw [State.lit, State.lit, State.sourceBit, State.sourceBit, hcfg, hmem]

/-- The raster is presented, and is the image of the memory (42_video_decode.md R164). -/
def State.ShowsMemory (t : State) : Prop :=
  t.presented = some t.raster ∧
    ∀ r c, r < t.cfg.rasterRows → c < t.cfg.rasterCols → t.pixelAt r c = if t.lit r c then 255#8 else 0#8

theorem State.ShowsMemory.congr {s t : State} (h : s.ShowsMemory) (hcfg : t.cfg = s.cfg) (hmem : t.mem = s.mem)
    (hraster : t.raster = s.raster) (hpresented : t.presented = s.presented) : t.ShowsMemory := by
  obtain ⟨hshown, himage⟩ := h
  refine ⟨by rw [hpresented, hraster, hshown], fun r c hr hc => ?_⟩
  rw [hcfg] at hr hc
  rw [State.lit_congr hcfg hmem, ← himage r c hr hc, State.pixelAt, State.pixelAt, hcfg, hraster]

/-- In a raster that fits the decoder `FRAME` shows the memory (43_scheduler.md R186). -/
theorem drawFrame_showsMemory {s : State} (hf : s.fault = none) (hfits : s.cfg.fits) :
    (drawFrame s).fault = none ∧ (drawFrame s).ShowsMemory := by
  obtain ⟨m, e, himage⟩ := drawFrame_of_drawable hf fun n hn _ => Config.holds_of_fits hfits hn
  rw [e]
  exact ⟨hf, rfl, himage⟩

/-- What the five steps after a slice, begun at `s` in phase `ph`, have done in `t` where none of them faulted. -/
structure AfterSlice (ph : Phase) (s t : State) : Prop where
  fault : t.fault = none
  kept : SliceKept s t
  phase : t.sched.phase = ph.other
  vectors : t.cpu.vectors = s.vector :: s.cpu.vectors
  events : t.events = []
  quitSet : s.quit = true → t.ended = true
  quitClear : s.quit = false → t.At .one ph.other
  dark : ph = .mid → t.raster = s.raster ∧ t.presented = s.presented
  shown : ph = .fin → s.cfg.fits → t.ShowsMemory

/-- The operations of the five steps after a slice (43_scheduler.md R191). -/
def afterSlice (ph : Phase) : List Instr :=
  [schedInstr .two ph, schedInstr .three ph, schedInstr .four ph.other, schedInstr .five ph.other,
    schedInstr .six ph.other]

/-- Steps 2 and 3 deliver the vector, flip the phase and draw nothing. -/
theorem State.At.beforeDraw {ph : Phase} {s : State} (h : s.At .two ph) :
    ∃ v, v.At .four ph.other ∧ Performs s [schedInstr .two ph, schedInstr .three ph] 2 v ∧ SliceKept s v ∧
      v.cpu.vectors = s.vector :: s.cpu.vectors ∧ v.raster = s.raster ∧ v.presented = s.presented := by
  obtain ⟨h3, hvectors⟩ := h.deliver
  have f2 := schedInstr_stepFrame .two ph s
  have f3 := schedInstr_stepFrame .three ph (meaning (schedInstr .two ph) s)
  exact ⟨_, h3.toggle, (h.performs (by decide) h3.fault).trans (h3.performs (by decide) h3.toggle.fault),
    (f2.sliceKept (by decide)).trans (f3.sliceKept (by decide)), (f3.vectors (by decide)).trans hvectors,
    (f3.raster (by decide)).trans (f2.raster (by decide)),
    (f3.presented (by decide)).trans (f2.presented (by decide))⟩

/-- Step 4 draws nothing in phase End and shows the memory in phase Mid; it faults only in a raster that does not fit the
decoder. -/
theorem State.At.drawn {ph : Phase} {s : State} (h : s.At .four ph) :
    (s.cfg.fits → (meaning (schedInstr .four ph) s).fault = none) ∧
    (ph = .fin → (meaning (schedInstr .four ph) s).raster = s.raster ∧
      (meaning (schedInstr .four ph) s).presented = s.presented) ∧
    (ph = .mid → s.cfg.fits → (meaning (schedInstr .four ph) s).ShowsMemory) := by
  cases ph with
  | mid => exact ⟨fun hfits => (drawFrame_showsMemory h.fault hfits).1, fun hph => (nomatch hph),
      fun _ hfits => (drawFrame_showsMemory h.fault hfits).2⟩
  | fin => exact ⟨fun _ => h.fault, fun _ => ⟨rfl, rfl⟩, fun hph => (nomatch hph)⟩

/-- Steps 5 and 6 drain the queue and end the run or come back to step 1. -/
theorem State.At.afterDraw {ph : Phase} {s : State} (h : s.At .five ph) :
    ∃ t, Performs s [schedInstr .five ph, schedInstr .six ph] 2 t ∧ SliceKept s t ∧ t.fault = none ∧
      t.sched.phase = ph ∧ t.cpu.vectors = s.cpu.vectors ∧ t.events = [] ∧
      (s.quit = true → t.ended = true) ∧ (s.quit = false → t.At .one ph) ∧
      t.mem = s.mem ∧ t.raster = s.raster ∧ t.presented = s.presented := by
  obtain ⟨h6, hevents⟩ := h.drain
  obtain ⟨hfault, hend, hgo⟩ := h6.quitCheck
  have f5 := schedInstr_stepFrame .five ph s
  have f6 := schedInstr_stepFrame .six ph (meaning (schedInstr .five ph) s)
  exact ⟨_, (h.performs (by decide) h6.fault).trans (h6.performs (by decide) hfault),
    (f5.sliceKept (by decide)).trans (f6.sliceKept (by decide)), hfault, (f6.phase (by decide)).trans h6.phase,
    (f6.vectors (by decide)).trans (f5.vectors (by decide)), (f6.events (by decide)).trans hevents,
    fun hq => hend (f5.quit.trans hq), fun hq => hgo (f5.quit.trans hq),
    (f6.mem (by decide) (by decide)).trans (f5.mem (by decide) (by decide)),
    (f6.raster (by decide)).trans (f5.raster (by decide)),
    (f6.presented (by decide)).trans (f5.presented (by decide))⟩

/-- From step 2, performing the five operations is a stretch of the loop: all five steps, or up to the fault of a raster
that does not fit the decoder. -/
theorem State.At.afterSlice {ph : Phase} {s : State} (h : s.At .two ph) (n : Nat) :
    ∃ t k, execAll n (Machine.afterSlice ph) s = some (.next t) ∧ runSteps k s = .next t ∧ k ≤ 5 ∧
      (t.fault = none → k = 5 ∧ AfterSlice ph s t) ∧ (s.cfg.fits → t.fault = none) := by
  obtain ⟨v, h4, hbefore, hkept, hvectors, hraster, hpresented⟩ := h.beforeDraw
  obtain ⟨hfits, hdark, hshown⟩ := h4.drawn
  have hframe := schedInstr_stepFrame .four ph.other v
  rw [hkept.cfg] at hfits hshown
  by_cases hf : (meaning (schedInstr .four ph.other) v).fault = none
  · obtain ⟨t, hafter, hkept', hnone, hphase, hvectors', hevents, hend, hgo, hmem, hraster', hpresented'⟩ :=
      (h4.draw hf).afterDraw
    have hall := (hbefore.trans (h4.performs (by decide) hf)).trans hafter
    have hk := (hkept.trans (hframe.sliceKept (by decide)))
    refine ⟨t, 5, hall.execAll_eq n, hall.runSteps_eq, le_refl 5, fun _ => ⟨rfl, ?_⟩, fun _ => hnone⟩
    exact
      { fault := hnone
        kept := hk.trans hkept'
        phase := hphase
        vectors := hvectors'.trans ((hframe.vectors (by decide)).trans hvectors)
        events := hevents
        quitSet := fun hq => hend (hk.quit.trans hq)
        quitClear := fun hq => hgo (hk.quit.trans hq)
        dark := fun hph => by
          obtain ⟨hr, hp⟩ := hdark (congrArg Phase.other hph)
          exact ⟨hraster'.trans (hr.trans hraster), hpresented'.trans (hp.trans hpresented)⟩
        shown := fun hph hs => (hshown (congrArg Phase.other hph) hs).congr hkept'.cfg hmem hraster' hpresented' }
  · refine ⟨_, 3, ?_, (hbefore.steps 1).trans (runSteps_succ h4.step), by decide, fun hnone => absurd hnone hf, hfits⟩
    exact (hbefore.list n _).trans (execAll_cons_of_fault h4.exec (unfinished_schedInstr (by decide) _ _) hf)

end Sys2Proof.Machine
end

section
/-! SUPPORT. A slice to its end in the loop (log entry 6), and a CPU that reports the same cost for every call
(43_scheduler.md R192). -/

namespace Sys2Proof.Machine

theorem totalCost_replicate (n k : Nat) : totalCost (List.replicate n ⟨[], k⟩) = n * k := by
  simp [totalCost]

/-- Instructions without accesses leave the state as it was. -/
theorem runInstrs_replicate (n k : Nat) (s : State) : runInstrs (List.replicate n ⟨[], k⟩) s = s := by
  induction n with
  | zero => rfl
  | succ n ih => exact ih

/-- `ceil(b / k)` is the least number of calls of cost `k` that reaches a positive `b`. -/
theorem ceil_div_least {b k : Nat} (hb : 1 ≤ b) (hk : 1 ≤ k) :
    b ≤ (b + k - 1) / k * k ∧ ∀ m, m < (b + k - 1) / k → m * k < b := by
  have hdiv := Nat.div_add_mod (b + k - 1) k
  have hmod := Nat.mod_lt (b + k - 1) hk
  rw [Nat.mul_comm] at hdiv
  refine ⟨by omega, fun m hm => ?_⟩
  have hle : (m + 1) * k ≤ (b + k - 1) / k * k := Nat.mul_le_mul_right k hm
  rw [Nat.succ_mul] at hle
  omega

/-- A slice of a CPU whose calls all cost `k` makes `ceil(budget / k)` of them. -/
theorem slice_of_replicate {s : State} {n k : Nat} (hf : s.fault = none) (hin : s.sched.inSlice = false)
    (hb : 1 ≤ s.cfg.budget) (hk : 1 ≤ k) (hn : (s.cfg.budget + k - 1) / k ≤ n)
    (hsupplied : s.cpu.supplied = List.replicate n ⟨[], k⟩) :
    slice s = s.retake
      { s.sched with cyc := k * ((s.cfg.budget + k - 1) / k), sstep := .two, inSlice := false }
      (List.replicate (n - (s.cfg.budget + k - 1) / k) ⟨[], k⟩) := by
  obtain ⟨hmet, hbefore⟩ := ceil_div_least hb hk
  generalize (s.cfg.budget + k - 1) / k = q at *
  have hsplit : s.cpu.supplied = List.replicate q ⟨[], k⟩ ++ List.replicate (n - q) ⟨[], k⟩ := by
    rw [hsupplied, List.replicate_append_replicate, Nat.add_sub_cancel' hn]
  have hq : List.replicate q (⟨[], k⟩ : CpuInstr) ≠ [] := fun h => by
    have hq0 : q = 0 := by simpa using h
    rw [hq0, Nat.zero_mul] at hmet
    omega
  rw [slice_of_met hf hin hsplit hq, runInstrs_replicate, totalCost_replicate, Nat.mul_comm]
  · intro c hc
    rw [List.eq_of_mem_replicate hc]
    rfl
  · intro m hm
    rw [List.length_replicate] at hm
    rw [List.take_replicate, Nat.min_eq_left hm.le, totalCost_replicate]
    exact hbefore m hm
  · rwa [totalCost_replicate]

/-- A slice that ends at step 2 leads there. -/
theorem State.At.slice {ph : Phase} {s : State} (h : s.At .one ph) (hfault : (slice s).fault = none)
    (hstep : (slice s).sched.sstep = .two) : (Machine.slice s).At .two ph :=
  h.advance (slice_stepFrame s) (by decide) hfault hstep ((slice_frame s).phase.trans h.phase)

theorem unfinished_slice_eq_true {ph : Phase} {t : State} (h : unfinished (.slice ph) t = true) :
    t.fault = none ∧ t.sched.inSlice = true := by
  simpa [unfinished] using h

theorem unfinished_slice_eq_false {ph : Phase} {t : State} (h : unfinished (.slice ph) t = false) :
    t.fault ≠ none ∨ t.sched.inSlice = false := by
  by_cases hf : t.fault = none
  · exact .inr (by simpa [unfinished, hf] using h)
  · exact .inl hf

/-- An operation performed to its end was finished at once, or went on from where it stood. -/
theorem execToEnd_cases {n : Nat} {i : Instr} {s v t : State} (hv : exec i s = .next v)
    (h : execToEnd n i s = some (.next t)) :
    (unfinished i v = false ∧ v = t) ∨
      (unfinished i v = true ∧ ∃ m, n = m + 1 ∧ execToEnd m i v = some (.next t)) := by
  cases hun : unfinished i v with
  | false =>
    rw [execToEnd_finished n i s v hv hun] at h
    cases h
    exact .inl ⟨rfl, rfl⟩
  | true =>
    rw [execToEnd, hv] at h
    simp only [hun, if_true] at h
    cases n with
    | zero => cases h
    | succ m => exact .inr ⟨rfl, m, rfl, h⟩

/-- `SLICE` to its end is a stretch of the loop; it stops with a fault, or at step 2 with the budget met. -/
theorem State.At.sliceToEnd {ph : Phase} {s t : State} {n : Nat} (h : s.At .one ph)
    (hexec : execToEnd n (.slice ph) s = some (.next t)) :
    (∃ k, k ≤ n + 1 ∧ runSteps k s = .next t) ∧ SliceFrame s t ∧
      (t.fault = none → t.At .two ph ∧ s.cfg.budget ≤ t.sched.cyc ∧ t.sched.inSlice = false) := by
  induction n using Nat.strong_induction_on generalizing s with
  | _ n ih =>
    have hframe := slice_frame s
    rcases execToEnd_cases h.exec hexec with ⟨hun, rfl⟩ | ⟨hun, m, rfl, hmore⟩
    · refine ⟨⟨1, by omega, runSteps_succ h.step⟩, hframe, fun hf => ?_⟩
      rcases slice_outcome s h.fault with ⟨-, hmet, htwo, hout⟩ | ⟨-, -, hin⟩
      · exact ⟨h.slice hf htwo, hmet, hout⟩
      · rcases unfinished_slice_eq_false hun with hfault | hout
        · exact absurd hf hfault
        · cases hin.symm.trans hout
    · obtain ⟨hf, hin⟩ := unfinished_slice_eq_true hun
      have hagain : (Machine.slice s).At .one ph := by
        rcases slice_outcome s h.fault with ⟨-, -, -, hout⟩ | ⟨-, hstep, -⟩
        · cases hin.symm.trans hout
        · exact h.advance (slice_stepFrame s) (by decide) hf (hstep.trans h.sstep) (hframe.phase.trans h.phase)
      obtain ⟨⟨k, hk, hsteps⟩, hrest, hend⟩ := ih m (by omega) hagain hmore
      rw [hframe.cfg] at hend
      exact ⟨⟨k + 1, by omega, (runSteps_succ h.step).trans hsteps⟩, hframe.trans hrest, hend⟩

/-- The vector of the phase is no matter of the slice. -/
theorem SliceFrame.vector {s t : State} (h : SliceFrame s t) : t.vector = s.vector := by
  rw [State.vector, State.vector, h.phase, h.cfg]

/-- One iteration with calls of cost `k` each: six steps, `ceil(budget / k)` calls, the vector of the phase, and the
memory shown in phase End alone. -/
theorem State.At.iteration_of_replicate {ph : Phase} {s : State} {n k : Nat} (h : s.At .one ph)
    (hin : s.sched.inSlice = false) (hquit : s.quit = false) (hfits : s.cfg.fits) (hb : 1 ≤ s.cfg.budget) (hk : 1 ≤ k)
    (hn : (s.cfg.budget + k - 1) / k ≤ n) (hsupplied : s.cpu.supplied = List.replicate n ⟨[], k⟩) :
    ∃ t, runSteps 6 s = .next t ∧ t.At .one ph.other ∧ t.cfg = s.cfg ∧ t.quit = false ∧ t.sched.inSlice = false ∧
      t.sched.cyc = k * ((s.cfg.budget + k - 1) / k) ∧
      t.cpu.supplied = List.replicate (n - (s.cfg.budget + k - 1) / k) ⟨[], k⟩ ∧
      t.cpu.vectors = s.vector :: s.cpu.vectors ∧
      (ph = .mid → t.raster = s.raster ∧ t.presented = s.presented) ∧ (ph = .fin → t.ShowsMemory) := by
  have e := slice_of_replicate h.fault hin hb hk hn hsupplied
  have hframe := slice_frame s
  have htwo : (Machine.slice s).At .two ph := h.slice (by rw [e]; exact h.fault) (by rw [e]; rfl)
  obtain ⟨t, j, -, hsteps, -, hafter, hnone⟩ := htwo.afterSlice 0
  rw [hframe.cfg] at hnone
  obtain ⟨rfl, ha⟩ := hafter (hnone hfits)
  refine ⟨t, (runSteps_succ h.step).trans hsteps, ha.quitClear (hframe.quit.trans hquit),
    ha.kept.cfg.trans hframe.cfg, ha.kept.quit.trans (hframe.quit.trans hquit), ha.kept.inSlice.trans (by rw [e]; rfl),
    ha.kept.cyc.trans (by rw [e]; rfl), ha.kept.supplied.trans (by rw [e]; rfl), ?_, fun hph => ?_, fun hph => ?_⟩
  · rw [ha.vectors, hframe.vector, hframe.vectors]
  · obtain ⟨hraster, hpresented⟩ := ha.dark hph
    exact ⟨hraster.trans hframe.raster, hpresented.trans hframe.presented⟩
  · exact ha.shown hph (hframe.cfg.symm ▸ hfits)

/-! ### The pseudo-operations on registers and switches -/

/-- `OUT 4, v` in a list. -/
theorem execAll_out4 (n : Nat) (v : Byte) (rest : List Instr) {s : State} (hs : s.running = true) :
    execAll n (.out4 v :: rest) s = execAll n rest (writePort4 v s) :=
  execAll_cons_of_next (exec_out4_of_running s v hs) rfl ((State.running_iff s).mp hs).1

/-- A mapped event in a list. -/
theorem execAll_eventInstr (n : Nat) (k : EventKind) (a : Action) (rest : List Instr) {s : State}
    (hs : s.running = true) :
    execAll n (eventInstr k a :: rest) s =
      execAll n rest (s.setIo { s.io with inreg := s.cfg.writeSwitch a (writtenBit k a) s.io.inreg }) := by
  rw [← meaning_eventInstr]
  refine execAll_cons_of_next (exec_of_running (eventInstr_wf_and_word k a).1 hs) ?_ ?_
  · cases k <;> cases a <;> rfl
  · rw [meaning_eventInstr]
    exact ((State.running_iff s).mp hs).1

/-- `SHIFTLOAD16` and what follows it. -/
theorem execAll_shiftLoad16 (n : Nat) (lo hi : Byte) (rest : List Instr) {s : State} (hs : s.running = true) :
    execAll n (shiftLoad16 lo hi ++ rest) s = execAll n rest (s.setIo { s.io with low := lo, high := hi }) :=
  (execAll_out4 n lo _ hs).trans (execAll_out4 n hi rest ((s.setIo_running _).trans hs))

/-- `SHIFTREAD o`: the window at offset `o mod 8`. -/
theorem execAll_shiftRead (n : Nat) (o : Byte) {s : State} (hs : s.running = true) :
    execAll n (shiftRead o) s =
      some (.next ((writePort2 o s).receive (((s.io.high ++ s.io.low) >>> (8 - o.toNat % 8)).extractLsb' 0 8))) := by
  have hf := ((State.running_iff s).mp hs).1
  have hs' : (writePort2 o s).running = true := (s.setIo_running _).trans hs
  rw [← window_writePort2, shiftRead, execAll_cons_of_next (exec_out2_of_running s o hs) rfl hf]
  exact execAll_cons_of_next (exec_in3_of_running _ hs') rfl hf

/-- `TAP a`: pressed and released. -/
theorem execAll_tap (n : Nat) (a : Action) {s : State} (hs : s.running = true) :
    execAll n (tap a) s = some (.next (s.setIo { s.io with
      inreg := s.cfg.writeSwitch a (writtenBit .up a) (s.cfg.writeSwitch a (writtenBit .down a) s.io.inreg) })) :=
  (execAll_eventInstr n .down a _ hs).trans (execAll_eventInstr n .up a [] ((s.setIo_running _).trans hs))

end Sys2Proof.Machine
end

section
/-! The obligations about the loop and the pseudo-operations (43_scheduler.md section 3, 30_encoding.md section 4), each
settled from the rules above. -/

open Sys2Proof Sys2Proof.Machine

/-- Settles O39: in a raster that fits the decoder the five steps do not fault. -/
theorem iterationAfterTheSlice : Obligations.IterationAfterTheSlice := by
  intro s hrun htxn hhost hquit hin hstep hfits
  have htwo : s.At .two s.sched.phase := ⟨hrun, htxn, hhost, hstep, rfl⟩
  obtain ⟨t, k, -, hsteps, -, hafter, hnone⟩ := htwo.afterSlice 0
  obtain ⟨rfl, ha⟩ := hafter (hnone hfits)
  have hone := ha.quitClear hquit
  obtain ⟨hlow, hhigh, hoffset⟩ := ha.kept.shift
  refine ⟨t, hsteps, hone.running, hone.sstep, hone.phase, ha.vectors, ha.kept.received, ha.events, hlow, hhigh, hoffset,
    ha.kept.cfg, ha.dark, fun hph => ?_⟩
  rw [← ha.kept.cfg]
  exact ha.shown hph hfits

/-- Settles O40: one iteration from phase Mid, and one from phase End on what it left. -/
theorem twoTogglesDeliverTwoVectorsAndDrawOnce : Obligations.TwoTogglesDeliverTwoVectorsAndDrawOnce := by
  intro s k n hrun htxn hhost hquit hin hstep hphase hfits hb hk hn hsupplied
  have hone : s.At .one .mid := ⟨hrun, htxn, hhost, hstep, hphase⟩
  obtain ⟨m, hsteps, hm, hcfg, hmquit, hmin, hcyc, hleft, hvectors, hdark, -⟩ :=
    hone.iteration_of_replicate hin hquit hfits hb hk (by omega) hsupplied
  rw [← hcfg] at hfits hb
  obtain ⟨t, hsteps', ht, hcfg', -, -, hcyc', hleft', hvectors', -, hshown⟩ :=
    hm.iteration_of_replicate hmin hmquit hfits hb hk (by rw [hcfg]; omega) hleft
  rw [hcfg] at hcyc' hleft' hcfg'
  have hvector : s.vector = s.cfg.vecMid := by rw [State.vector, hphase]
  have hvector' : m.vector = s.cfg.vecEnd := by rw [State.vector, hm.phase, ← hcfg]; rfl
  rw [hvector] at hvectors
  rw [hvector', hvectors] at hvectors'
  obtain ⟨hraster, hpresented⟩ := hdark rfl
  obtain ⟨hshown, himage⟩ := hshown rfl
  rw [hcfg'] at himage
  refine ⟨⟨m, hsteps, hm.running, hm.sstep, hm.phase, hraster, hpresented, hvectors, hcyc, hleft⟩,
    t, (runSteps_add hsteps 6).trans hsteps', ht.running, ht.sstep, ht.phase, hvectors', hcyc', ?_, hshown, himage⟩
  rw [hleft', Nat.sub_sub, ← Nat.two_mul]

/-- Settles O41: two shifts in load both registers, and the second event of a tap decides the bit. -/
theorem pseudoOperationsAreTheirSequences : Obligations.PseudoOperationsAreTheirSequences := by
  refine ⟨fun s n lo hi hs => execAll_shiftLoad16 n lo hi [] hs, fun s n lo hi o hs => ?_, fun s n a hs hc => ?_,
    by decide⟩
  · have hs' : (s.setIo { s.io with low := lo, high := hi }).running = true := (s.setIo_running _).trans hs
    exact ⟨_, (execAll_shiftLoad16 n lo hi _ hs).trans (execAll_shiftRead n o hs'), rfl⟩
  · refine ⟨_, execAll_tap n a hs, ?_, fun b hb => ?_⟩
    · rw [State.setIo_io, Config.getLsbD_writeSwitch, if_pos rfl]
      cases a <;> rfl
    · rw [State.setIo_io, Config.getLsbD_writeSwitch_bit hc, if_neg hb, Config.getLsbD_writeSwitch_bit hc, if_neg hb]

/-- Settles O55: `SLICE` to its end and the five operations after it are stretches of the loop. -/
theorem iterRunsTheSliceToItsEnd : Obligations.IterRunsTheSliceToItsEnd := by
  refine ⟨fun s t n hrun htxn hhost hin hstep hiter => ?_,
    fun s n hrun htxn hhost hin hstep hfits hb hok hreach => ?_⟩
  · have hone : s.At .one s.sched.phase := ⟨hrun, htxn, hhost, hstep, rfl⟩
    obtain ⟨v, hslice, hrest⟩ := execAll_cons_eq_next hiter
    obtain ⟨⟨k, hk, hsteps⟩, hframe, hend⟩ := hone.sliceToEnd hslice
    rcases hrest with ⟨hf, hrest⟩ | ⟨hf, rfl⟩
    · obtain ⟨htwo, hmet, hout⟩ := hend hf
      obtain ⟨u, j, hall, hsteps', hj, hafter, -⟩ := htwo.afterSlice n
      obtain rfl : u = t := by
        cases hall.symm.trans hrest
        rfl
      refine ⟨⟨k + j, by omega, (runSteps_add hsteps j).trans hsteps'⟩, fun hnone => ?_⟩
      obtain ⟨-, ha⟩ := hafter hnone
      refine ⟨hmet.trans ha.kept.cyc.ge, ha.kept.inSlice.trans hout, ha.phase, ?_, ha.events,
        fun hq => ha.quitSet (hframe.quit.trans hq), fun hq => ?_⟩
      · rw [ha.vectors, hframe.vector, hframe.vectors]
      · have hback := ha.quitClear (hframe.quit.trans hq)
        exact ⟨hback.running, hback.sstep⟩
    · exact ⟨⟨k, by omega, hsteps⟩, fun hnone => absurd hnone hf⟩
  · have hone : s.At .one s.sched.phase := ⟨hrun, htxn, hhost, hstep, rfl⟩
    obtain ⟨m, -, -, -, -, hnone, e⟩ := slice_of_reached hone.fault hin hb hok hreach
    have hf : (slice s).fault = none := by rw [e]; exact hnone
    have htwo : (slice s).At .two s.sched.phase := hone.slice hf (by rw [e]; rfl)
    have hfinished : unfinished (.slice s.sched.phase) (slice s) = false := by
      have hout : (slice s).sched.inSlice = false := by rw [e]; rfl
      simp [unfinished, hout]
    obtain ⟨t, j, hall, hsteps, -, hafter, hgood⟩ := htwo.afterSlice n
    have hgood := hgood ((slice_frame s).cfg.symm ▸ hfits)
    obtain ⟨rfl, -⟩ := hafter hgood
    exact ⟨t, (execAll_cons_of_next hone.exec hfinished hf).trans hall, hgood,
      (runSteps_succ hone.step).trans hsteps⟩

end
